-- ==== Sys2Proof/Word.lean ====
section
/-! DEFINITION. The word types of the block: the channel byte, the 24-bit pattern, the 3-bit group and
the 3-bit command code (spec 00_scope.md R9, 30_encoding.md R81, R82, R92). -/

namespace Sys2Proof

/-- A channel byte (F-CH, 30_encoding.md R81), and a byte of every buffer (20_memory.md R50). -/
abbrev Byte := BitVec 8

/-- An encoded channel pattern (F-PAT, 30_encoding.md R82). -/
abbrev Pattern := BitVec 24

/-- A group: the three output bits of one source bit (30_encoding.md R83). -/
abbrev Group := BitVec 3

/-- The command code `OP` (30_encoding.md R92). -/
abbrev OpCode := BitVec 3

end Sys2Proof
end

