-- ==== Sys2Proof/Config.lean ====
section
/-! DEFINITION. The constants of the block (00_scope.md R9, 30_encoding.md R84), the answers of the
transmission capability TX (43_external_interfaces.md R180), and the free values: what the spec leaves
open, as constants without a body. -/

namespace Sys2Proof.Config

/-- The base pattern of eight zero groups (30_encoding.md R84). -/
def skeleton : Pattern := 0x924924#24

/-- The eight variable bit positions `3k + 1` of a pattern (30_encoding.md R84). -/
def onesMask : Pattern := 0x492492#24

/-- The sixteen constant bit positions of a pattern (30_encoding.md R84). -/
def fixedMask : Pattern := 0xB6DB6D#24

/-- The zero group (30_encoding.md R83). -/
def zeroGroup : Group := 0b100#3

/-- The one group (30_encoding.md R83). -/
def oneGroup : Group := 0b110#3

end Sys2Proof.Config

namespace Sys2Proof

/-- An error value of TX (`TxErr`, 00_scope.md R8: opaque, non-interpreted). DESIGN CHOICE, log 7: a value
is a token that no operation of the block looks into. -/
structure TxErr where
  token : Nat
  deriving DecidableEq, Repr, Inhabited

/-- What comes of a handoff to TX: its answer, success or an error (43_external_interfaces.md R180), or none for ever
(R182; 93_implementation_defined.md U7; log 6). -/
inductive TxReply where
  | ok
  | err (e : TxErr)
  | silent
  deriving DecidableEq, Repr, Inhabited

/-- FREE VALUE (log 8): the byte at an offset of the output buffer that draw number `draw` allocates. The
spec leaves the contents unspecified (10_state.md R27, 93_implementation_defined.md U10). -/
opaque Config.freeByte (draw offset : Nat) : Byte

/-- FREE VALUE (log 5): TX's answer of draw number `draw`, for a handoff whose answer no script gives
(43_external_interfaces.md R180: any answer, constrained by nothing). -/
opaque Config.freeReply (draw : Nat) : TxReply

/-- OPEN (log 4): the instance parameter `TX_PRESENT` where no argument is given for it (00_scope.md R8,
43_external_interfaces.md R181, decision D17: either value, the same for the life of the instance). -/
opaque Config.txPresent : Bool

end Sys2Proof
end

