-- ==== Sys2Proof/Syntax.lean ====
section
/-! DEFINITION. The commands of the block (30_encoding.md R92, spec/opcode_table.json): one constructor per
row, with the operands the row gives. -/

namespace Sys2Proof

/-- How HOST placed the two buffers of a stand-alone RASTER: "independent buffers", or overlapping ones
(20_memory.md R62). The spec gives buffers no addresses (20_memory.md R58), so this is an operand (log 11). -/
inductive Placement where
  | independent
  | overlapping
  deriving DecidableEq, Repr

/-- A command with its operands. -/
inductive Instr where
  /-- ENC (40_bit_encoder.md R110): encode one channel byte. -/
  | enc (b : Byte)
  /-- RASTER (41_frame_rasterizer.md R130): `inBuf` is the operand `in`, `outBuf` the operand `out` with the
  bytes it holds before the command (log 10). -/
  | raster (cpp : Nat) (inBuf outBuf : List Byte) (placement : Placement)
  /-- CONFIG (42_device_handle.md R151): construct the handle. -/
  | config (pixelCount signalingSpeedHz : Nat) (dedicatedWhiteChannel : Bool)
  /-- WRITE (42_device_handle.md R154): encode and send one frame; `pixelBytes` is the operand `IBUF`. -/
  | write (pixelBytes : List Byte)
  /-- HALT (42_device_handle.md R157): send the all-dark frame. -/
  | halt
  deriving DecidableEq, Repr

/-- The row of spec/opcode_table.json an instruction stands for. -/
def Instr.mnemonic : Instr → String
  | .enc _ => "ENC"
  | .raster _ _ _ _ => "RASTER"
  | .config _ _ _ => "CONFIG"
  | .write _ => "WRITE"
  | .halt => "HALT"

end Sys2Proof
end

