-- ==== Sys2Proof/WellFormed.lean ====
section
/-! DEFINITION. Which commands HOST can put on the command ports of 92_eei_decisions.md: every operand must
fit its port. -/

namespace Sys2Proof

/-- The operand `channelsPerPixel` travels on the port `cmd_cpp`, which has 3 bits (92_eei_decisions.md, port
table; log 16). Which of its values have a meaning is RASTER's own check (41_frame_rasterizer.md R135). -/
def fitsCppPort (cpp : Nat) : Bool := decide (cpp < 2 ^ 3)

/-- The operands of a command fit their ports. The other operands have open widths or exactly the width of
their port (00_scope.md R8). -/
def Instr.wf : Instr → Bool
  | .enc _ => true
  | .raster cpp _ _ _ => fitsCppPort cpp
  | .config _ _ _ => true
  | .write _ => true
  | .halt => true

end Sys2Proof
end

