-- ==== Sys2Proof/Decode.lean ====
section
/-! DEFINITION. The command format F-CMD (30_encoding.md R92): a 3-bit code `OP` with the operands in separate
fields beside it. The decoder is total and rejects by name; the encoder is written from the same table. -/

namespace Sys2Proof

/-- The command ports (92_eei_decisions.md, port table). `cmd_len` is the length of `ibuf`, which has exactly
`L` bytes, so it is not held a second time (log 17). `outBuf` and `placement` are RASTER's buffer operand `out`
and how HOST placed it (log 10, log 11). -/
structure Command where
  op : OpCode
  encIn : Byte
  cpp : BitVec 3
  ibuf : List Byte
  outBuf : List Byte
  placement : Placement
  pixCount : Nat
  speedHz : Nat
  white : Bool
  deriving DecidableEq, Repr

/-- The length operand `L` of a command (port `cmd_len`). -/
def Command.len (c : Command) : Nat := c.ibuf.length

/-- Why a command is no instruction. -/
inductive DecodeError where
  /-- `OP` is 5, 6 or 7 (30_encoding.md R92, R93 (e)). -/
  | reservedCommand
  deriving DecidableEq, Repr

/-- What the decoder reads from a command. -/
inductive Decoded where
  | instr (i : Instr)
  | rejected (e : DecodeError)
  deriving DecidableEq, Repr

/-- The decoder: the table of 30_encoding.md R92. The operand fields a command does not name are not read. -/
def decode (c : Command) : Decoded :=
  match c.op.toNat with
  | 0 => .instr (.enc c.encIn)
  | 1 => .instr (.raster c.cpp.toNat c.ibuf c.outBuf c.placement)
  | 2 => .instr (.config c.pixCount c.speedHz c.white)
  | 3 => .instr (.write c.ibuf)
  | 4 => .instr .halt
  | _ => .rejected .reservedCommand

/-- A command whose operand fields are all zero or empty. -/
def bareCommand (op : OpCode) : Command :=
  { op := op, encIn := 0#8, cpp := 0#3, ibuf := [], outBuf := [], placement := .independent,
    pixCount := 0, speedHz := 0, white := false }

/-- The command code of an instruction (30_encoding.md R92). -/
def Instr.code : Instr → OpCode
  | .enc _ => 0b000#3
  | .raster _ _ _ _ => 0b001#3
  | .config _ _ _ => 0b010#3
  | .write _ => 0b011#3
  | .halt => 0b100#3

/-- The encoder: the command ports for an instruction, the fields it does not name zero or empty. -/
def encode (i : Instr) : Command :=
  match i with
  | .enc b => { bareCommand i.code with encIn := b }
  | .raster cpp inBuf outBuf placement =>
    { bareCommand i.code with
      cpp := BitVec.ofNat 3 cpp, ibuf := inBuf, outBuf := outBuf, placement := placement }
  | .config pixelCount signalingSpeedHz dedicatedWhiteChannel =>
    { bareCommand i.code with
      pixCount := pixelCount, speedHz := signalingSpeedHz, white := dedicatedWhiteChannel }
  | .write pixelBytes => { bareCommand i.code with ibuf := pixelBytes }
  | .halt => bareCommand i.code

/-- A row of spec/opcode_table.json: a word `w` is the row's command when `w &&& mask = pattern`. -/
structure OpcodeRow where
  mnemonic : String
  pattern : Nat
  mask : Nat
  deriving DecidableEq, Repr

/-- spec/opcode_table.json (30_encoding.md R92). -/
def opcodeTable : List OpcodeRow :=
  [⟨"ENC", 0x0, 0x7⟩, ⟨"RASTER", 0x1, 0x7⟩, ⟨"CONFIG", 0x2, 0x7⟩, ⟨"WRITE", 0x3, 0x7⟩, ⟨"HALT", 0x4, 0x7⟩]

/-- The command whose bits are `w`, numbered as spec/opcode_table.json numbers them: `OP` is bits 2 to 0. The
table gives no bit above them a meaning (its masks are 0x7; log 18), and the operand fields are zero or empty. -/
def tableCommand (nbits w : Nat) : Command := bareCommand (BitVec.ofNat 3 (w % 2 ^ nbits))

/-- The instruction the decoder reads from a word of the table. -/
def decodeTableWord (nbits w : Nat) : Option Instr :=
  match decode (tableCommand nbits w) with
  | .instr i => some i
  | .rejected _ => none

end Sys2Proof
end

