-- ==== Sys2Proof/Machine/State.lean ====
section
/-! DEFINITION. The state of one instance of the block (10_state.md R20), the model's marks (R34), and what the
spec calls inputs, oracle answers and outputs, as plain data; the faults and refusals; the state after reset
(R35). -/

namespace Sys2Proof.Machine

/-- A byte buffer: its bytes by offset, offsets strictly rising. An offset that is not listed does not exist: the
spec's buffers have a length and nothing beyond it (20_memory.md R50, R59; log 9). -/
abbrev Memory := List Host.Cell

/-- Why the machine stops with a fault (00_scope.md R13 (3)). All are safe: nothing is promised afterwards. -/
inductive Fault where
  /-- Raised by WRITE (length divisible but not the whole frame, or zero) and by HALT (empty frame):
  60_exceptions.md R197, 42_device_handle.md R155. Safe. -/
  | frameLengthMismatch
  /-- Raised by a stand-alone RASTER whose lengths violate its preconditions: 60_exceptions.md R197,
  41_frame_rasterizer.md R135. Safe. -/
  | rasterPrecondition
  deriving DecidableEq, Repr

/-- Why a command is refused (00_scope.md R13 (4)). All are safe: the model gives the run no meaning. -/
inductive Refusal where
  /-- Raised by exec for an instruction that has no meaning yet. Safe. -/
  | notModelled (mnemonic : String)
  /-- Raised by a stand-alone RASTER with `cpp` not 3 or 4: 60_exceptions.md R197. Safe. -/
  | badChannelCount
  /-- Raised by a stand-alone RASTER whose buffers overlap: 60_exceptions.md R197. Safe. -/
  | aliasedBuffers
  /-- Raised by WRITE and HALT while `CONFIGURED = 0`: 60_exceptions.md R197. Safe. -/
  | notConfigured
  /-- Raised by CONFIG while `CONFIGURED = 1`: 60_exceptions.md R197. Safe. -/
  | alreadyConfigured
  /-- Raised by the command decoder for a code 5, 6 or 7: 60_exceptions.md R197. Safe. -/
  | reservedCommand
  deriving DecidableEq, Repr

/-- The errors of the block (60_exceptions.md R190); `txError` carries TX's own value unmodified (R194). -/
inductive CmdError where
  | configError
  | lengthError
  | notSupportedError
  | txError (e : TxErr)
  deriving DecidableEq, Repr

/-- The response of a command (F-RSP, 30_encoding.md R96). -/
inductive Response where
  /-- Success of RASTER, CONFIG and HALT. -/
  | ok
  /-- Success of ENC, with the pattern. -/
  | okPattern (p : Pattern)
  /-- Success of WRITE, with the count of input bytes consumed. -/
  | okCount (n : Nat)
  /-- One of the errors. -/
  | error (e : CmdError)
  deriving DecidableEq, Repr

/-- A call of TX (43_external_interfaces.md R180): the bit sequence, first bit first, and the bit period in
seconds. -/
structure TxCall where
  bits : List Bool
  period : Rat
  deriving DecidableEq, Repr

/-- The state. -/
structure State where
  /-- The mode bit `CONFIGURED` (10_state.md R24). -/
  configured : Bool
  /-- `cfg.PIXCOUNT` (10_state.md R24). -/
  pixCount : Nat
  /-- `cfg.WHITE` (10_state.md R24). -/
  white : Bool
  /-- `cfg.SPEED_HZ` (10_state.md R24). -/
  speedHz : Nat
  /-- The output bit buffer `OBUF` (10_state.md R26). -/
  obuf : Memory
  /-- The mark `faulted(reason)` (10_state.md R34). -/
  faulted : Option Fault
  /-- The mark `refused(reason)` (10_state.md R34). -/
  refused : Option Refusal
  /-- Not state of the hardware: the argument `TX_PRESENT` the model is given for the instance (00_scope.md R8), or none
  where it is left open (log 4). No step writes it; `State.txPresent` reads it. -/
  txArgument : Option Bool
  /-- Input: the commands HOST has not issued yet, the next one first (log 2). -/
  pending : List Command
  /-- Input: the answers TX will give, the next one first; after them its answers are free (log 5). -/
  txScript : List TxReply
  /-- The model's own counter of the free values drawn (log 8). -/
  draws : Nat
  /-- The stuck state: TX has not answered the last call, so the command that made it, and with it the instance, waits
  for ever (43_external_interfaces.md R182, 93_implementation_defined.md U7; log 6). -/
  waiting : Bool
  /-- Output: the response of the last command (30_encoding.md R96), none before the first and while a command waits;
  nothing reads it (10_state.md R32 (f); log 13). -/
  rsp : Option Response
  /-- Output: the buffer operand `out` of the last stand-alone RASTER, as RASTER left it (log 10). -/
  rasterOut : Memory
  /-- Output: the calls of TX so far, oldest first (43_external_interfaces.md R180; log 13). -/
  txCalls : List TxCall
  deriving DecidableEq, Repr

/-- The state after reset (10_state.md R35): no handle has been constructed. The registers, which hold no value
then, are at 0 and false (log 3); `TX_PRESENT` is open (log 4); no input and no output yet, and nothing waits (log 2, 5,
6, 10, 13). -/
def State.reset : State :=
  { configured := false, pixCount := 0, white := false, speedHz := 0, obuf := [],
    faulted := none, refused := none, txArgument := none, pending := [], txScript := [], draws := 0,
    waiting := false, rsp := none, rasterOut := [], txCalls := [] }

/-- What a command comes to. -/
abbrev Result := Host.Outcome State Fault Refusal

end Sys2Proof.Machine
end

