-- ==== Sys2Proof/Machine/Ops.lean ====
section
/-! DEFINITION. The named operations over buffers, registers, inputs and outputs, and the one operation that
delivers an error (60_exceptions.md R200). The meanings go through these alone. -/

namespace Sys2Proof.Machine

/-! Buffers (20_memory.md R50). -/

/-- The canonical form: offsets strictly rising. (No entry can equal what an unlisted offset reads as, because an
unlisted offset does not exist; log 9.) -/
def Memory.wf : Memory → Bool
  | [] => true
  | [_] => true
  | (a, _) :: (b, y) :: m => decide (a < b) && Memory.wf ((b, y) :: m)

/-- The buffer whose bytes stand at the offsets from `base` on. -/
def Memory.fromOffset (base : Nat) : List Byte → Memory
  | [] => []
  | b :: bs => (base, b) :: Memory.fromOffset (base + 1) bs

/-- The buffer with the given bytes, from offset 0 on. -/
def Memory.ofBytes (bs : List Byte) : Memory := Memory.fromOffset 0 bs

/-- The bytes of a buffer in ascending offset order. -/
def Memory.bytes (m : Memory) : List Byte := m.map Prod.snd

/-- The buffer has exactly the offsets `0 .. n - 1` (00_scope.md R12: a buffer of length `n`). -/
def Memory.hasLength (m : Memory) (n : Nat) : Bool := decide (m.map Prod.fst = List.range n)

/-- Read one byte; there is none at an offset outside the buffer. -/
def Memory.read (m : Memory) (a : Nat) : Option Byte :=
  match m with
  | [] => none
  | (x, b) :: m => if x = a then some b else Memory.read m a

/-- Overwrite one byte in place; an offset outside the buffer cannot be written (20_memory.md R59). -/
def Memory.store (m : Memory) (a : Nat) (v : Byte) : Option Memory :=
  match m with
  | [] => none
  | (x, b) :: m => if x = a then some ((x, v) :: m) else (Memory.store m a v).map ((x, b) :: ·)

/-- `MemRead` of `n` bytes (00_scope.md R12): ascending offsets, none if one of them does not exist. -/
def Memory.readAll (m : Memory) (a : Nat) : Nat → Option (List Byte)
  | 0 => some []
  | n + 1 => (Memory.read m a).bind fun b => (Memory.readAll m (a + 1) n).map (b :: ·)

/-- `MemWrite` (00_scope.md R12): the bytes at ascending offsets, none if one of them does not exist. -/
def Memory.storeAll (m : Memory) (a : Nat) : List Byte → Option Memory
  | [] => some m
  | v :: vs => (Memory.store m a v).bind fun m' => Memory.storeAll m' (a + 1) vs

/-- A buffer of `n` bytes as draw number `draw` allocates it: its contents are free values (10_state.md R27). -/
def freshBuffer (draw n : Nat) : Memory := Memory.ofBytes ((List.range n).map (Config.freeByte draw))

/-! Responses (30_encoding.md R96). -/

/-- The number of an error in `STATUS` (60_exceptions.md R196). -/
def CmdError.code : CmdError → BitVec 3
  | .configError => 1#3
  | .lengthError => 2#3
  | .notSupportedError => 3#3
  | .txError _ => 4#3

/-- `STATUS`, port `rsp_status`. -/
def Response.status : Response → BitVec 3
  | .ok => 0#3
  | .okPattern _ => 0#3
  | .okCount _ => 0#3
  | .error e => e.code

/-- `COUNT`, port `rsp_count`: `L` when a WRITE succeeds and 0 in every other response. -/
def Response.count : Response → Nat
  | .ok => 0
  | .okPattern _ => 0
  | .okCount n => n
  | .error _ => 0

/-- The pattern of ENC's response, port `rsp_pattern`. -/
def Response.pattern : Response → Option Pattern
  | .ok => none
  | .okPattern p => some p
  | .okCount _ => none
  | .error _ => none

/-- TX's own error value in a TxError response, port `rsp_txerr`. -/
def Response.txErr : Response → Option TxErr
  | .ok => none
  | .okPattern _ => none
  | .okCount _ => none
  | .error .configError => none
  | .error .lengthError => none
  | .error .notSupportedError => none
  | .error (.txError e) => some e

/-! Outputs. -/

/-- The command answers. -/
def State.answer (s : State) (r : Response) : State := { s with rsp := some r }

/-- Deliver an error (60_exceptions.md R200): it is the status of the command's response. Nothing is saved, no mode
changes and control goes nowhere; the block is ready for the next command (R201). -/
def raise (e : CmdError) (s : State) : Result := .next (s.answer (.error e))

/-- The command waits for TX: it has no response, and nothing ends the waiting (43_external_interfaces.md R182; log 6). -/
def State.await (s : State) : State := { s with waiting := true, rsp := none }

/-- Record a call of TX as an output event (43_external_interfaces.md R180). -/
def State.recordCall (s : State) (c : TxCall) : State := { s with txCalls := s.txCalls ++ [c] }

/-- The stand-alone RASTER leaves its buffer operand `out`. -/
def State.leaveRasterOut (s : State) (m : Memory) : State := { s with rasterOut := m }

/-! State of the hardware. -/

/-- Put a frame into `OBUF`. -/
def State.setObuf (s : State) (m : Memory) : State := { s with obuf := m }

/-- Channel bytes per pixel of a layout (42_device_handle.md R152): RGB has 3, RGBW has 4. -/
def channels (white : Bool) : Nat := if white then 4 else 3

/-- The derived view `cfg.CPP` (10_state.md R24). -/
def State.cpp (s : State) : Nat := channels s.white

/-- The derived view `cfg.BITPERIOD` in seconds (10_state.md R24, 42_device_handle.md R153): exactly
`1 / cfg.SPEED_HZ`. (While `cfg.SPEED_HZ` is 0, which no reachable configured state has, this is Lean's 0; log 25.) -/
def State.bitPeriod (s : State) : Rat := 1 / (s.speedHz : Rat)

/-- Channel bytes in a frame: `cfg.CPP * cfg.PIXCOUNT`. -/
def State.frameLen (s : State) : Nat := s.cpp * s.pixCount

/-- Construct the handle (42_device_handle.md R151): write the registers and allocate `OBUF`, whose contents are
free values (10_state.md R27). -/
def State.configure (s : State) (pixelCount signalingSpeedHz : Nat) (dedicatedWhiteChannel : Bool) : State :=
  { s with
    configured := true, pixCount := pixelCount, white := dedicatedWhiteChannel, speedHz := signalingSpeedHz,
    obuf := freshBuffer s.draws (3 * channels dedicatedWhiteChannel * pixelCount), draws := s.draws + 1 }

/-! The instance and its inputs. -/

/-- The parameter `TX_PRESENT` of the instance (00_scope.md R8): the argument given, or open (log 4). -/
def State.txPresent (s : State) : Bool := s.txArgument.getD Config.txPresent

/-- The answer TX will give to the next handoff: the script's, or a free value past its end (log 5). -/
def State.txReply (s : State) : TxReply :=
  match s.txScript with
  | [] => Config.freeReply s.draws
  | r :: _ => r

/-- That answer is used up. -/
def State.consumeReply (s : State) : State :=
  match s.txScript with
  | [] => { s with draws := s.draws + 1 }
  | _ :: rs => { s with txScript := rs }

/-- HOST issues its next command: the rest stay pending. -/
def State.accept (s : State) (rest : List Command) : State := { s with pending := rest }

/-- A command is put where the next step reads it, and the next step is free to take it. -/
def State.issueFirst (s : State) (c : Command) : State :=
  { s with pending := c :: s.pending, faulted := none, refused := none, waiting := false }

/-! Marks (10_state.md R34). -/

/-- The mark a state carries, as the outcome every further step has. -/
def State.marked (s : State) : Option Result :=
  match s.faulted, s.refused with
  | some f, _ => some (.fault f)
  | none, some r => some (.refused r)
  | none, none => none

/-- What a run keeps of an outcome: the next state, or the same state with the mark set. -/
def State.record (s : State) : Result → State
  | .next t => t
  | .fault f => { s with faulted := some f }
  | .refused r => { s with refused := some r }

end Sys2Proof.Machine
end

