-- ==== Sys2Proof/Machine/Operands.lean ====
section
/-! DEFINITION. Operand assembly: where the bytes of a pixel are read, where a pattern is written, how a pattern
becomes bytes and a buffer becomes bits (20_memory.md R51 to R54, 30_encoding.md R86 to R90). -/

namespace Sys2Proof.Machine

/-- The channel permutation `SRC` (30_encoding.md R88): output channel to input channel. Red and Green swap. -/
def src : Nat → Nat
  | 0 => 1
  | 1 => 0
  | c => c

/-- The offset of the input byte of output channel `c` of pixel `p` (41_frame_rasterizer.md R138). -/
def inOffset (cpp p c : Nat) : Nat := cpp * p + src c

/-- The first offset of the pattern of output channel `c` of pixel `p` (41_frame_rasterizer.md R138). -/
def outOffset (cpp p c : Nat) : Nat := 3 * (cpp * p + c)

/-- `MemRead` of one byte of the input buffer (00_scope.md R12); there is none past its end. -/
def inByte (inBuf : List Byte) (a : Nat) : Option Byte := inBuf[a]?

/-- The three bytes of a pattern, most significant byte first (30_encoding.md R86). -/
def bytes3 (p : Pattern) : List Byte :=
  [p.extractLsb' 16 8, p.extractLsb' 8 8, p.extractLsb' 0 8]

/-- The bits of a byte, most significant bit first (20_memory.md R54). -/
def byteBits (b : Byte) : List Bool :=
  [b.getLsbD 7, b.getLsbD 6, b.getLsbD 5, b.getLsbD 4, b.getLsbD 3, b.getLsbD 2, b.getLsbD 1, b.getLsbD 0]

/-- `STREAM`, the bits of a buffer in the order TX receives them (20_memory.md R54). -/
def stream (m : Memory) : List Bool := m.bytes.flatMap byteBits

/-- The frame HALT sends: every channel byte of every pixel is `0x00` (42_device_handle.md R157). -/
def State.zeroFrame (s : State) : List Byte := List.replicate s.frameLen 0#8

end Sys2Proof.Machine
end

