-- ==== Sys2Proof/Machine/Flags.lean ====
section
/-! DEFINITION. The block has no flags (10_state.md R23). What takes their place are the conditions its commands
check before they act (60_exceptions.md R197, R199). -/

namespace Sys2Proof.Machine

/-- `cpp` is one of the two channel counts that have a layout (30_encoding.md R93 (c)). -/
abbrev goodChannelCount (cpp : Nat) : Prop := cpp = 3 ∨ cpp = 4

/-- The length of RASTER's input is "a positive multiple of `channelsPerPixel`" (41_frame_rasterizer.md R131 (a)). -/
abbrev goodInLength (cpp inLen : Nat) : Prop := 0 < inLen ∧ inLen % cpp = 0

/-- The output buffer has three bytes for each input byte (41_frame_rasterizer.md R131 (b)). -/
abbrev goodOutLength (inLen outLen : Nat) : Prop := outLen = 3 * inLen

/-- WRITE's eager check (42_device_handle.md R155 (1)): the length is not a multiple of `cfg.CPP`. -/
abbrev State.badMultiple (s : State) (len : Nat) : Prop := len % s.cpp ≠ 0

/-- WRITE's whole-frame check (42_device_handle.md R155 (2)): the length is not the whole frame, or is zero. -/
abbrev State.notWholeFrame (s : State) (len : Nat) : Prop := len ≠ s.frameLen ∨ len = 0

end Sys2Proof.Machine
end

