-- ==== Sys2Proof/Machine/BitEncoder.lean ====
section
/-! DEFINITION. The Bit Encoder: operation ENC (40_bit_encoder.md), and its inverse DEC, which is no operation of the
block (30_encoding.md R94). -/

namespace Sys2Proof.Machine

/-- One turn of ENC's loop (40_bit_encoder.md R110): a set source bit `k` upgrades its group. -/
def upgrade (b : Byte) (p : Pattern) (k : Nat) : Pattern :=
  if b.getLsbD k then p ||| (1#24 <<< (3 * k + 1)) else p

/-- `ENC(b)` (40_bit_encoder.md R110): the skeleton with the bit `3k + 1` OR'd in for every set bit `k`. It is also the
combinational path from `enc_in` to `enc_out`, usable in every mode (40_bit_encoder.md R116). -/
def enc (b : Byte) : Pattern := (List.range 8).foldl (upgrade b) Config.skeleton

/-- Group `i` of a pattern, group 0 the most significant (30_encoding.md R82): bits `23 - 3i` down to `21 - 3i`. -/
def group (p : Pattern) (i : Nat) : Group := p.extractLsb' (21 - 3 * i) 3

/-- A valid pattern (30_encoding.md R94): every group is the zero group or the one group. -/
def validPattern (p : Pattern) : Bool :=
  (List.range 8).all fun i => group p i == Config.zeroGroup || group p i == Config.oneGroup

/-- `DEC(P)` (30_encoding.md R94): bit `k` is bit `3k + 1` of the pattern. -/
def dec (p : Pattern) : Byte := BitVec.ofFnLE fun k : Fin 8 => p.getLsbD (3 * k.val + 1)

/-- ENC (40_bit_encoder.md R110): the response carries the pattern; no state is read or written, in any mode. -/
def execEnc (b : Byte) (s : State) : Result := .next (s.answer (.okPattern (enc b)))

end Sys2Proof.Machine
end

