-- ==== Sys2Proof/Machine/FrameRasterizer.lean ====
section
/-! DEFINITION. The Frame Rasterizer: operation RASTER (41_frame_rasterizer.md). -/

namespace Sys2Proof.Machine

/-- The body of RASTER's inner loop (41_frame_rasterizer.md R130): read the channel byte, encode it, write its three
bytes. There is no result if an offset lies outside its buffer. -/
def rasterChannel (cpp : Nat) (inBuf : List Byte) (p : Nat) (out : Memory) (c : Nat) : Option Memory :=
  (inByte inBuf (inOffset cpp p c)).bind fun b => Memory.storeAll out (outOffset cpp p c) (bytes3 (enc b))

/-- RASTER's inner loop: the output channels of pixel `p`, in ascending order (41_frame_rasterizer.md R136). -/
def rasterPixel (cpp : Nat) (inBuf : List Byte) (out : Memory) (p : Nat) : Option Memory :=
  (List.range cpp).foldlM (rasterChannel cpp inBuf p) out

/-- `RASTER(cpp, in, out)` (41_frame_rasterizer.md R130): the pixels in ascending order. Where the preconditions of
R131 do not hold there is no result: nothing is truncated and no prefix is rastered (R135). -/
def raster (cpp : Nat) (inBuf : List Byte) (out : Memory) : Option Memory :=
  if goodInLength cpp inBuf.length ∧ goodOutLength inBuf.length out.length then
    (List.range (inBuf.length / cpp)).foldlM (rasterPixel cpp inBuf) out
  else none

/-- RASTER on its own (41_frame_rasterizer.md R130, R135). The spec gives its stops no order where several conditions
hold; the model takes them in the order R135 lists them (log 12). -/
def execRaster (cpp : Nat) (inBuf outBuf : List Byte) (placement : Placement) (s : State) : Result :=
  if ¬ goodChannelCount cpp then .refused .badChannelCount
  else if ¬ goodInLength cpp inBuf.length then .fault .rasterPrecondition
  else if ¬ goodOutLength inBuf.length outBuf.length then .fault .rasterPrecondition
  else if placement = .overlapping then .refused .aliasedBuffers
  else
    match raster cpp inBuf (Memory.ofBytes outBuf) with
    | some out => .next ((s.leaveRasterOut out).answer .ok)
    | none => .fault .rasterPrecondition

end Sys2Proof.Machine
end

