-- ==== Sys2Proof/Machine/Transmission.lean ====
section
/-! DEFINITION. The handoff to the transmission capability TX, as one operation of WRITE and HALT
(43_external_interfaces.md R180), and the informative wire durations (R186). -/

namespace Sys2Proof.Machine

/-- The call the handoff makes: `STREAM(OBUF)` by value, and `cfg.BITPERIOD` (43_external_interfaces.md R180). -/
def State.txCall (s : State) : TxCall := { bits := stream s.obuf, period := s.bitPeriod }

/-- The call is made and TX's answer taken: the call is recorded as an output event, the answer is used up. -/
def State.handOver (s : State) : State := s.consumeReply.recordCall s.txCall

/-- The handoff (43_external_interfaces.md R180): one call, recorded, whose answer becomes the command's outcome. TX's
error is passed through unmodified (60_exceptions.md R194). A TX that never answers leaves the command waiting for ever,
its call made (R182; log 6). -/
def transmit (success : Response) (s : State) : Result :=
  match s.txReply with
  | .ok => .next (s.handOver.answer success)
  | .err e => raise (.txError e) s.handOver
  | .silent => .next s.handOver.await

/-- How long TX takes to send a call's bits if it keeps the period exactly, in seconds (43_external_interfaces.md R186:
informative; nothing in the model depends on it). -/
def TxCall.duration (c : TxCall) : Rat := (c.bits.length : Rat) * c.period

end Sys2Proof.Machine
end

