-- ==== Sys2Proof/Machine/DeviceHandle.lean ====
section
/-! DEFINITION. The Device Handle: commands CONFIG, WRITE and HALT (42_device_handle.md). -/

namespace Sys2Proof.Machine

/-- CONFIG (42_device_handle.md R151): the mode check comes before the speed check (60_exceptions.md R199). -/
def execConfig (pixelCount signalingSpeedHz : Nat) (dedicatedWhiteChannel : Bool) (s : State) : Result :=
  if s.configured then .refused .alreadyConfigured
  else if signalingSpeedHz = 0 then raise .configError s
  else .next ((s.configure pixelCount signalingSpeedHz dedicatedWhiteChannel).answer .ok)

/-- WRITE (42_device_handle.md R154): the length checks, the raster into `OBUF`, then the check for TX and the handoff.
After NotSupportedError and TxError `OBUF` holds the new frame (R155). An `OBUF` of another length than the frame's,
which no reachable state has, is the same mismatch between buffers (log 19). -/
def execWrite (pixelBytes : List Byte) (s : State) : Result :=
  if ¬ s.configured then .refused .notConfigured
  else if s.badMultiple pixelBytes.length then raise .lengthError s
  else if s.notWholeFrame pixelBytes.length then .fault .frameLengthMismatch
  else
    match raster s.cpp pixelBytes s.obuf with
    | none => .fault .frameLengthMismatch
    | some out =>
      if ¬ s.txPresent then raise .notSupportedError (s.setObuf out)
      else transmit (.okCount pixelBytes.length) (s.setObuf out)

/-- HALT (42_device_handle.md R157): the check for TX comes first, so that a HALT that cannot transmit changes nothing;
then the zero frame goes into `OBUF` and to TX. -/
def execHalt (s : State) : Result :=
  if ¬ s.configured then .refused .notConfigured
  else if ¬ s.txPresent then raise .notSupportedError s
  else if s.pixCount = 0 then .fault .frameLengthMismatch
  else
    match raster s.cpp s.zeroFrame s.obuf with
    | none => .fault .frameLengthMismatch
    | some out => transmit .ok (s.setObuf out)

end Sys2Proof.Machine
end

