-- ==== Sys2Proof/Machine/Dispatch.lean ====
section
/-! DEFINITION. The meaning of each command (30_encoding.md R92). -/

namespace Sys2Proof.Machine

/-- One command is one atomic step (00_scope.md R10). -/
def exec (i : Instr) (s : State) : Host.Outcome State Fault Refusal :=
  match i with
  | .enc b => Sys2Proof.Machine.execEnc b s
  | .raster cpp inBuf outBuf placement => Sys2Proof.Machine.execRaster cpp inBuf outBuf placement s
  | .config pixelCount signalingSpeedHz dedicatedWhiteChannel => Sys2Proof.Machine.execConfig pixelCount signalingSpeedHz dedicatedWhiteChannel s
  | .write pixelBytes => Sys2Proof.Machine.execWrite pixelBytes s
  | .halt => Sys2Proof.Machine.execHalt s

end Sys2Proof.Machine
end

