-- ==== Sys2Proof/Machine/Text.lean ====
section
/-! DEFINITION. The one-line text form of commands and responses (30_encoding.md R95): notation only, no command reads
it. A TxErr, which the spec leaves opaque, is written as its token (log 24). -/

namespace Sys2Proof.Machine

/-- A hexadecimal digit. -/
def hexDigit (n : Nat) : String := String.singleton (Nat.digitChar n).toUpper

/-- The `width` low hexadecimal digits of a number, most significant first. -/
def hexText (n : Nat) : Nat → String
  | 0 => ""
  | width + 1 => hexText (n / 16) width ++ hexDigit (n % 16)

/-- Bytes are two hex digits separated by spaces. -/
def bytesText : List Byte → String
  | [] => ""
  | [b] => hexText b.toNat 2
  | b :: bs => hexText b.toNat 2 ++ " " ++ bytesText bs

/-- An operand list after the mnemonic; an empty byte list leaves nothing. -/
def spaced (t : String) : String := if t = "" then "" else " " ++ t

/-- The text of a command. -/
def commandText : Instr → String
  | .enc b => "ENC " ++ hexText b.toNat 2
  | .raster cpp inBuf _ _ => "RASTER " ++ toString cpp ++ "," ++ spaced (bytesText inBuf)
  | .config n v w => "CONFIG " ++ toString n ++ ", " ++ toString v ++ ", " ++ (if w then "rgbw" else "rgb")
  | .write bs => "WRITE" ++ spaced (bytesText bs)
  | .halt => "HALT"

/-- The text of a response. -/
def responseText : Response → String
  | .ok => "-> Ok"
  | .okPattern p => "-> Ok(0x" ++ hexText p.toNat 6 ++ ")"
  | .okCount n => "-> Ok(" ++ toString n ++ ")"
  | .error .configError => "-> ConfigError"
  | .error .lengthError => "-> LengthError"
  | .error .notSupportedError => "-> NotSupportedError"
  | .error (.txError e) => "-> TxError(" ++ toString e.token ++ ")"

/-- The text of a fault. -/
def faultText : Fault → String
  | .frameLengthMismatch => "-> fault FrameLengthMismatch"
  | .rasterPrecondition => "-> fault RasterPrecondition"

/-- The text of a refusal. (The model's own refusal for an instruction without a meaning has no text of the spec's.) -/
def refusalText : Refusal → String
  | .badChannelCount => "-> refuse BadChannelCount"
  | .aliasedBuffers => "-> refuse AliasedBuffers"
  | .notConfigured => "-> refuse NotConfigured"
  | .alreadyConfigured => "-> refuse AlreadyConfigured"
  | .reservedCommand => "-> refuse ReservedCommand"
  | _ => ""

end Sys2Proof.Machine
end

