-- ==== Sys2Proof/Machine/Step.lean ====
section
/-! DEFINITION. One step of the machine: a marked run stays where it is (10_state.md R34), the block takes HOST's next
command, decodes it and runs it (00_scope.md R10, R11). -/

namespace Sys2Proof.Machine

/-- Decode a command and run it; a reserved code is refused (30_encoding.md R92). -/
def runCommand (c : Command) (s : State) : Result :=
  match decode c with
  | .instr i => exec i s
  | .rejected .reservedCommand => .refused .reservedCommand

/-- One step. While TX owes an answer the instance takes no command and stays as it is (43_external_interfaces.md R182,
42_device_handle.md R160; log 6); with no command pending the block waits for HOST, unchanged (log 2). -/
def step (s : State) : Host.Outcome State Fault Refusal :=
  match s.marked with
  | some stopped => stopped
  | none =>
    if s.waiting then .next s
    else
      match s.pending with
      | [] => .next s
      | c :: rest => runCommand c (s.accept rest)

/-- One step of a run that keeps its marks: a fault or a refusal is recorded in the state, and every later step leaves
the state as it is (10_state.md R34). -/
def advance (s : State) : State := s.record (step s)

/-- The command whose bits are `w` is HOST's next one, so that the next step runs it (log 2, log 18). -/
def State.withFetchWord (s : State) (nbits w : Nat) : State := s.issueFirst (tableCommand nbits w)

end Sys2Proof.Machine
end

