-- ==== Sys2Proof/Safety.lean ====
section
/-! DEFINITION. What counts as a safe run, and the invariants claims are stated with. -/

namespace Sys2Proof.Machine

/-- No fault and no refusal has been recorded: the premise of every claim about a run (10_state.md R34). -/
def State.unmarked (s : State) : Prop := s.faulted = none ∧ s.refused = none

/-- The state after `n` steps of a run that keeps its marks. -/
def runFor : Nat → State → State
  | 0, s => s
  | n + 1, s => runFor n (advance s)

/-- A run of `n` steps is safe when it ends without a mark (marks are never cleared). -/
def safeRun (n : Nat) (s : State) : Prop := (runFor n s).unmarked

/-- What the buffer and the registers of a handle promise (10_state.md R24 to R26): before CONFIG there is no buffer;
from CONFIG on the speed is not 0 and `OBUF` has exactly `3 * cfg.CPP * cfg.PIXCOUNT` bytes. -/
def State.handleOk (s : State) : Prop :=
  (s.configured = false → s.obuf = []) ∧
  (s.configured = true → s.speedHz ≠ 0 ∧ s.obuf.hasLength (3 * s.cpp * s.pixCount) = true)

/-- The buffers are in canonical form. -/
def State.buffersOk (s : State) : Prop := s.obuf.wf = true ∧ s.rasterOut.wf = true

/-- What TX is handed (43_external_interfaces.md R180, corner cases): never an empty sequence, never a period that is
zero or negative. -/
def State.callsOk (s : State) : Prop := ∀ c ∈ s.txCalls, c.bits ≠ [] ∧ 0 < c.period

/-- What a waiting instance waits for (43_external_interfaces.md R182; log 6): the answer to the last call of TX, which
carries the stream of its `OBUF` and its bit period; the command has not answered. -/
def State.waitOk (s : State) : Prop :=
  s.waiting = true →
    s.configured = true ∧ s.txPresent = true ∧ s.txCalls.getLast? = some s.txCall ∧ s.rsp = none

/-- The invariant of the machine: it holds at reset and every step keeps it. -/
def State.inv (s : State) : Prop := s.handleOk ∧ s.buffersOk ∧ s.callsOk ∧ s.waitOk

/-- The input offset within a pixel of output channel `c`, as 30_encoding.md R88 tables it: Green, Red, Blue, White. -/
def channelOffset (c : Nat) : Nat := if c = 0 then 1 else if c = 1 then 0 else c

/-- `out` is the output frame of `inBuf` (30_encoding.md R90): byte `j` of the pattern of output channel `c` of pixel `p`
is at offset `3*(cpp*p + c) + j`, and there is nothing else. -/
def isFrame (cpp : Nat) (inBuf : List Byte) (out : Memory) : Prop :=
  out.hasLength (3 * inBuf.length) = true ∧
  ∀ p c j, p < inBuf.length / cpp → c < cpp → j < 3 →
    ∃ b, inBuf[cpp * p + channelOffset c]? = some b ∧
      Memory.read out (3 * (cpp * p + c) + j) = (bytes3 (enc b))[j]?

/-- The three bits of each group of a channel byte in the order of the wire (20_memory.md R55): `1, b[k], 0` for source
bits 7 down to 0. -/
def wireBits (b : Byte) : List Bool := [7, 6, 5, 4, 3, 2, 1, 0].flatMap fun k => [true, b.getLsbD k, false]

/-- The 24-bit value of triple `t` of a buffer, big-endian (20_memory.md R53), if all three bytes exist. -/
def Memory.triple (m : Memory) (t : Nat) : Option Pattern :=
  match Memory.readAll m (3 * t) 3 with
  | some [x, y, z] => some (x ++ y ++ z)
  | _ => none

/-- The buffer holds `n` encoded channel bytes (10_state.md R28): every aligned triple is a valid pattern. -/
def Memory.validFrame (m : Memory) (n : Nat) : Prop :=
  ∀ t, t < n → ∃ p, Memory.triple m t = some p ∧ validPattern p = true

end Sys2Proof.Machine
end

