-- ==== Sys2Proof/Certificates/Slice0/Obligations.lean ====
section
/-! DEFINITION. The statements for the provers. Each docstring names the rule of spec/ it formalises; where a clause is
the spec's own decision or the model's choice, it names the decision (D n) or the log entry. -/

open Sys2Proof Sys2Proof.Machine

/-! ## ENC (40_bit_encoder.md) -/

/-- R110. ENC completes in every state with its pattern and writes no state; the pattern bit by bit; the order in which
the set bits are OR'd in is immaterial; the corner cases. -/
def Obligations.EncCompletesWithItsPattern : Prop :=
  ∀ b : Byte,
    (∀ s : State, exec (.enc b) s = .next { s with rsp := some (.okPattern (enc b)) }) ∧
    (∀ k, k < 8 → (enc b).getLsbD (3 * k + 2) = true ∧ (enc b).getLsbD (3 * k + 1) = b.getLsbD k ∧
      (enc b).getLsbD (3 * k) = false) ∧
    (∀ order : List Nat, order.Perm (List.range 8) →
      enc b = order.foldl (fun p k => if b.getLsbD k then p ||| (1#24 <<< (3 * k + 1)) else p) 0x924924#24) ∧
    (b = 0x00#8 → enc b = 0x924924#24) ∧ (b = 0xFF#8 → enc b = 0xDB6DB6#24) ∧
    (∀ k, k < 8 → b = 1#8 <<< k → (enc b).toNat = 0x924924 + 2 ^ (3 * k + 1)) ∧
    (b = 0x80#8 → enc b = 0xD24924#24) ∧
    (enc b).getLsbD 23 = true ∧ (enc b).getLsbD 0 = false

/-- R111, R112. Group `i`, counted from the most significant end, is `110` if source bit `7 - i` is set and `100` if it is
not; so every result has the skeleton's constant bits. Source bit 0 upgrades the last group, not the first. -/
def Obligations.EncGroupsFollowSourceBits : Prop :=
  (∀ (b : Byte) (i : Nat), i < 8 →
    (enc b).extractLsb' (21 - 3 * i) 3 = if b.getLsbD (7 - i) then 0b110#3 else 0b100#3) ∧
  (∀ b : Byte, enc b &&& 0xB6DB6D#24 = 0x924924#24 ∧ validPattern (enc b) = true) ∧
  enc 0x01#8 = 0x924926#24 ∧ enc 0x01#8 ≠ 0xD24924#24

/-- R113. ENC is injective, DEC recovers every source bit and the byte, and the image has 256 elements. -/
def Obligations.EncIsInjectiveAndDecodable : Prop :=
  (∀ a b : Byte, enc a = enc b → a = b) ∧
  (∀ (b : Byte) (k : Nat), k < 8 → b.getLsbD k = (enc b).getLsbD (3 * k + 1)) ∧
  (∀ b : Byte, dec (enc b) = b) ∧
  (∃ p : Pattern, ∀ b : Byte, enc b ≠ p) ∧
  (Finset.image enc Finset.univ).card = 256

/-- 30_encoding.md, section 3 (its R94, part of which the spec derives). The patterns whose groups are all `100` or `110`
are those with the skeleton's constant bits, and they are exactly the 256 results of ENC, which DEC inverts. -/
def Obligations.ValidPatternsAreExactlyTheEncodings : Prop :=
  (∀ p : Pattern, validPattern p = true ↔ p &&& 0xB6DB6D#24 = 0x924924#24) ∧
  (∀ p : Pattern, validPattern p = true ↔ enc (dec p) = p) ∧
  (∀ (p : Pattern) (k : Nat), k < 8 → (dec p).getLsbD k = p.getLsbD (3 * k + 1)) ∧
  (∀ b : Byte, validPattern (enc b) = true ∧ dec (enc b) = b) ∧
  (Finset.univ.filter fun p : Pattern => validPattern p = true).card = 256

/-- 40_bit_encoder.md, arithmetic laws (its R114, which the spec derives), (a) to (e), with `spread` the sum of
`b[k] * 2^(3k+1)`. -/
def Obligations.EncArithmeticLaws : Prop :=
  ∀ b : Byte, ∀ spread : Nat,
    spread = ((List.range 8).map fun k => if b.getLsbD k then 2 ^ (3 * k + 1) else 0).sum →
    -- (a)
    (enc b = 0x924924#24 ||| BitVec.ofNat 24 spread ∧ enc b = 0x924924#24 ^^^ BitVec.ofNat 24 spread ∧
      0x924924#24 &&& BitVec.ofNat 24 spread = 0#24 ∧ (enc b).toNat = 0x924924 + spread) ∧
    -- (b)
    (spread = 2 * ((List.range 8).map fun k => if b.getLsbD k then 8 ^ k else 0).sum ∧ spread ≤ 0x492492) ∧
    -- (c)
    (0x924924 ≤ (enc b).toNat ∧ (enc b).toNat ≤ 0xDB6DB6 ∧ ∀ a : Byte, a < b → enc a < enc b) ∧
    -- (d)
    ((∀ a : Byte, enc (a ||| b) = enc a ||| enc b ∧ enc (a &&& b) = enc a &&& enc b) ∧
      enc (~~~b) = enc b ^^^ 0x492492#24) ∧
    -- (e)
    ((List.range 24).filter fun j => (enc b).getLsbD j).length =
      8 + ((List.range 8).filter fun k => b.getLsbD k).length

/-- R117. The document's own values, as ENC answers them. -/
def Obligations.EncWorkedValues : Prop :=
  ∀ s : State,
    exec (.enc 0x00#8) s = .next { s with rsp := some (.okPattern 0x924924#24) } ∧
    exec (.enc 0x80#8) s = .next { s with rsp := some (.okPattern 0xD24924#24) } ∧
    exec (.enc 0xFF#8) s = .next { s with rsp := some (.okPattern 0xDB6DB6#24) } ∧
    exec (.enc 0x01#8) s = .next { s with rsp := some (.okPattern 0x924926#24) }

/-! ## Pattern bytes and buffers (20_memory.md, 30_encoding.md) -/

/-- 30_encoding.md, section 1 (its R84, whose masks the spec derives). The skeleton and the two masks, and how they meet. -/
def Obligations.PatternConstantsAndMasks : Prop :=
  Config.skeleton = 0b100100100100100100100100#24 ∧ Config.skeleton = 0x924924#24 ∧
  Config.onesMask = 0b010010010010010010010010#24 ∧ Config.fixedMask = ~~~Config.onesMask ∧
  Config.fixedMask = 0xB6DB6D#24 ∧
  (∀ j, j < 24 → Config.onesMask.getLsbD j = decide (j % 3 = 1)) ∧
  Config.skeleton &&& Config.onesMask = 0#24 ∧ Config.skeleton ||| Config.onesMask = 0xDB6DB6#24 ∧
  Config.skeleton &&& Config.fixedMask = Config.skeleton

/-- R53. A pattern is stored in three consecutive bytes, most significant byte at the lowest offset, and the three bytes
read as one big-endian value are the pattern; no other offset changes. -/
def Obligations.PatternIsStoredBigEndian : Prop :=
  ∀ (m m' : Memory) (t : Nat) (p : Pattern), Memory.storeAll m (3 * t) (bytes3 p) = some m' →
    Memory.read m' (3 * t) = some (p.extractLsb' 16 8) ∧
    Memory.read m' (3 * t + 1) = some (p.extractLsb' 8 8) ∧
    Memory.read m' (3 * t + 2) = some (p.extractLsb' 0 8) ∧
    Memory.triple m' t = some p ∧
    ∀ a, (a < 3 * t ∨ 3 * t + 3 ≤ a) → Memory.read m' a = Memory.read m a

/-- 30_encoding.md, section 2 (its R86, whose byte formulas the spec derives). The three bytes of ENC's pattern in terms of
the source bits. -/
def Obligations.PatternBytesOfSourceBits : Prop :=
  ∀ b : Byte, ∀ bit : Nat → Byte, (∀ k, bit k = if b.getLsbD k then 1#8 else 0#8) →
    bytes3 (enc b) =
      [0x92#8 ||| bit 7 <<< 6 ||| bit 6 <<< 3 ||| bit 5, 0x49#8 ||| bit 4 <<< 5 ||| bit 3 <<< 2,
       0x24#8 ||| bit 2 <<< 7 ||| bit 1 <<< 4 ||| bit 0 <<< 1]

/-- R88. The channel permutation: Green, Red, Blue, White from offsets 1, 0, 2, 3; its own inverse. -/
def Obligations.ChannelPermutationIsAnInvolution : Prop :=
  src 0 = 1 ∧ src 1 = 0 ∧ src 2 = 2 ∧ src 3 = 3 ∧ (∀ c, src (src c) = c) ∧
  ∀ cpp, cpp = 3 ∨ cpp = 4 → ((List.range cpp).map src).Perm (List.range cpp)

/-- 20_memory.md, sections 1 and 3 (the model's buffers, log 9). Writing bytes in place: it succeeds exactly inside the
buffer, keeps its offsets and the canonical form, reads back, and leaves every other byte alone. -/
def Obligations.WritesToBuffersStayInPlace : Prop :=
  (∀ (m m' : Memory) (a : Nat) (vs : List Byte), Memory.storeAll m a vs = some m' →
    m'.wf = m.wf ∧ m'.map Prod.fst = m.map Prod.fst ∧ Memory.readAll m' a vs.length = some vs ∧
    ∀ x, (x < a ∨ a + vs.length ≤ x) → Memory.read m' x = Memory.read m x) ∧
  (∀ (m : Memory) (n a : Nat) (vs : List Byte), m.hasLength n = true →
    ((∃ m', Memory.storeAll m a vs = some m') ↔ vs = [] ∨ a + vs.length ≤ n)) ∧
  (∀ (m : Memory) (n : Nat), m.hasLength n = true → m.wf = true ∧
    ∀ a, (∃ b, Memory.read m a = some b) ↔ a < n)

/-- 20_memory.md, section 2 (decision D14, log 23). `STREAM[j]` is bit `7 - j mod 8` of byte `j div 8`, so a pattern's 24
bits go out from bit 23 to bit 0. -/
def Obligations.StreamIsMostSignificantBitFirst : Prop :=
  (∀ bs : List Byte, (stream (Memory.ofBytes bs)).length = 8 * bs.length ∧
    ∀ j, j < 8 * bs.length →
      (stream (Memory.ofBytes bs))[j]? = (bs[j / 8]?).map fun b => b.getLsbD (7 - j % 8)) ∧
  ∀ p : Pattern, stream (Memory.ofBytes (bytes3 p)) = (List.range 24).map fun j => p.getLsbD (23 - j)

/-- 20_memory.md, section 2 (its R55, which the spec derives). A rastered buffer's stream is, pixel by pixel in ascending
order, Green, Red, Blue[, White], each as the eight groups `1, b[k], 0` from bit 7 down to bit 0. -/
def Obligations.WireOrderOfGroups : Prop :=
  ∀ (cpp : Nat) (inBuf : List Byte) (out m : Memory), goodChannelCount cpp →
    out.hasLength (3 * inBuf.length) = true → raster cpp inBuf out = some m →
    stream m = (List.range (inBuf.length / cpp)).flatMap fun p =>
      (List.range cpp).flatMap fun c => wireBits (inBuf.getD (cpp * p + channelOffset c) 0#8)

/-! ## RASTER (41_frame_rasterizer.md) -/

/-- 41_frame_rasterizer.md, RASTER (its R130), and 30_encoding.md, section 1 (its R90). On operands that meet RASTER's
preconditions it completes with Ok, and leaves in `out` the output frame and nothing else; no other state changes. That
`out` is left in the field `rasterOut` is the model's choice (log 10). -/
def Obligations.RasterCompletesWithTheFrame : Prop :=
  ∀ (cpp : Nat) (inBuf outBuf : List Byte) (s : State), (cpp = 3 ∨ cpp = 4) → 0 < inBuf.length →
    inBuf.length % cpp = 0 → outBuf.length = 3 * inBuf.length →
    ∃ out, isFrame cpp inBuf out ∧
      exec (.raster cpp inBuf outBuf .independent) s = .next { s with rasterOut := out, rsp := some .ok }

/-- R132, R133. In every pixel the first triple is the second input byte (Green), the second is the first (Red), the
third is Blue and, in an RGBW frame, the fourth is White. -/
def Obligations.RasterSwapsRedAndGreenInEveryPixel : Prop :=
  ∀ (cpp : Nat) (inBuf outBuf : List Byte) (s t : State), 
    exec (.raster cpp inBuf outBuf .independent) s = .next t → ∀ p, p < inBuf.length / cpp →
    (∃ g, inBuf[cpp * p + 1]? = some g ∧ Memory.readAll t.rasterOut (3 * cpp * p) 3 = some (bytes3 (enc g))) ∧
    (∃ r, inBuf[cpp * p + 0]? = some r ∧ Memory.readAll t.rasterOut (3 * cpp * p + 3) 3 = some (bytes3 (enc r))) ∧
    (∃ b, inBuf[cpp * p + 2]? = some b ∧ Memory.readAll t.rasterOut (3 * cpp * p + 6) 3 = some (bytes3 (enc b))) ∧
    (cpp = 4 →
      ∃ w, inBuf[cpp * p + 3]? = some w ∧ Memory.readAll t.rasterOut (3 * cpp * p + 9) 3 = some (bytes3 (enc w)))

/-- 41_frame_rasterizer.md, violated preconditions (decisions D19, D28); which stop comes first where several conditions
hold is the model's choice (log 12). -/
def Obligations.RasterStopsOutsideItsContract : Prop :=
  ∀ (cpp : Nat) (inBuf outBuf : List Byte) (placement : Placement) (s : State),
    (cpp ≠ 3 ∧ cpp ≠ 4 → exec (.raster cpp inBuf outBuf placement) s = .refused .badChannelCount) ∧
    (cpp = 3 ∨ cpp = 4 → inBuf.length = 0 ∨ inBuf.length % cpp ≠ 0 ∨ outBuf.length ≠ 3 * inBuf.length →
      exec (.raster cpp inBuf outBuf placement) s = .fault .rasterPrecondition) ∧
    (cpp = 3 ∨ cpp = 4 → 0 < inBuf.length → inBuf.length % cpp = 0 → outBuf.length = 3 * inBuf.length →
      exec (.raster cpp inBuf outBuf .overlapping) s = .refused .aliasedBuffers)

/-- 41_frame_rasterizer.md, purity. What RASTER leaves does not depend on the state, nor on what `out` held; running it
again on what it left changes nothing. -/
def Obligations.RasterIgnoresStateAndOldContents : Prop :=
  ∀ (cpp : Nat) (inBuf o₁ o₂ : List Byte) (placement : Placement) (s₁ s₂ t₁ : State), o₁.length = o₂.length →
    exec (.raster cpp inBuf o₁ placement) s₁ = .next t₁ →
    (∃ t₂, exec (.raster cpp inBuf o₂ placement) s₂ = .next t₂ ∧ t₂.rasterOut = t₁.rasterOut ∧ t₂.rsp = t₁.rsp) ∧
    exec (.raster cpp inBuf t₁.rasterOut.bytes placement) t₁ = .next t₁

/-- 41_frame_rasterizer.md, laws of the result (its R140 (a) to (d), which the spec derives): length, valid triples, every
input byte can be recovered, and an output triple depends on one input byte only. -/
def Obligations.RasterResultIsRecoverableAndLocal : Prop :=
  ∀ (cpp : Nat) (inBuf : List Byte) (out m : Memory), goodChannelCount cpp →
    out.hasLength (3 * inBuf.length) = true → raster cpp inBuf out = some m →
    m.length = 3 * inBuf.length ∧
    m.validFrame inBuf.length ∧
    (∀ p c, p < inBuf.length / cpp → c < cpp →
      inBuf[cpp * p + channelOffset c]? = (Memory.triple m (cpp * p + c)).map dec) ∧
    (∀ (inBuf' : List Byte) (out' : Memory), out'.hasLength (3 * inBuf'.length) = true →
      raster cpp inBuf' out' = some m → inBuf' = inBuf) ∧
    (∀ (i : Nat) (v : Byte) (m' : Memory), raster cpp (inBuf.set i v) out = some m' →
      ∀ p c, p < inBuf.length / cpp → c < cpp →
        (cpp * p + channelOffset c ≠ i → Memory.triple m' (cpp * p + c) = Memory.triple m (cpp * p + c)) ∧
        (cpp * p + channelOffset c = i → ∀ x y, Memory.triple m (cpp * p + c) = some x →
          Memory.triple m' (cpp * p + c) = some y → ∀ j, j < 24 → x.getLsbD j ≠ y.getLsbD j →
            ∃ k, j = 3 * k + 1 ∧ (inBuf.getD i 0#8).getLsbD k ≠ v.getLsbD k))

/-- 41_frame_rasterizer.md, laws of the result (its R140 (e) and (f), which the spec derives): the raster of a
concatenation is the concatenation of the rasters, and an RGBW pixel's first nine bytes are those of its RGB pixel. -/
def Obligations.RasterWorksPixelByPixel : Prop :=
  (∀ (cpp : Nat) (a b oa ob oc : List Byte) (ma mb mc : Memory), goodChannelCount cpp →
    raster cpp a (Memory.ofBytes oa) = some ma → raster cpp b (Memory.ofBytes ob) = some mb →
    raster cpp (a ++ b) (Memory.ofBytes oc) = some mc → mc.bytes = ma.bytes ++ mb.bytes) ∧
  (∀ (r g b w : Byte) (o₃ o₄ : List Byte) (m₃ m₄ : Memory),
    raster 3 [r, g, b] (Memory.ofBytes o₃) = some m₃ → raster 4 [r, g, b, w] (Memory.ofBytes o₄) = some m₄ →
    m₄.bytes.take 9 = m₃.bytes)

/-- 41_frame_rasterizer.md, iteration (decision D20). The loop body may run over the (pixel, channel) pairs of the frame in
any order: the end state is RASTER's. -/
def Obligations.RasterOrderIsUnobservable : Prop :=
  ∀ (cpp : Nat) (inBuf : List Byte) (out : Memory) (order : List (Nat × Nat)), goodChannelCount cpp →
    0 < inBuf.length → inBuf.length % cpp = 0 → out.hasLength (3 * inBuf.length) = true →
    order.Perm ((List.range (inBuf.length / cpp)).flatMap fun p => (List.range cpp).map fun c => (p, c)) →
    ∃ m, raster cpp inBuf out = some m ∧
      order.foldlM (fun m q => rasterChannel cpp inBuf q.1 m q.2) out = some m

/-- R141. The document's worked examples, as RASTER answers them. -/
def Obligations.RasterWorkedExamples : Prop :=
  ∀ (s : State) (o₉ o₁₈ : List Byte), o₉.length = 9 → o₁₈.length = 18 →
    exec (.raster 3 [0#8, 1#8, 2#8] o₉ .independent) s = .next { s with
      rsp := some .ok
      rasterOut := Memory.ofBytes [0x92#8, 0x49#8, 0x26#8, 0x92#8, 0x49#8, 0x24#8, 0x92#8, 0x49#8, 0x34#8] } ∧
    exec (.raster 3 [0xFD#8, 0xFE#8, 0xFF#8] o₉ .independent) s = .next { s with
      rsp := some .ok
      rasterOut := Memory.ofBytes [0xDB#8, 0x6D#8, 0xB4#8, 0xDB#8, 0x6D#8, 0xA6#8, 0xDB#8, 0x6D#8, 0xB6#8] } ∧
    exec (.raster 3 [0#8, 1#8, 2#8, 0xFD#8, 0xFE#8, 0xFF#8] o₁₈ .independent) s = .next { s with
      rsp := some .ok
      rasterOut := Memory.ofBytes
        [0x92#8, 0x49#8, 0x26#8, 0x92#8, 0x49#8, 0x24#8, 0x92#8, 0x49#8, 0x34#8,
         0xDB#8, 0x6D#8, 0xB4#8, 0xDB#8, 0x6D#8, 0xA6#8, 0xDB#8, 0x6D#8, 0xB6#8] }

/-- 10_state.md, section 3 (ENC and RASTER read and write no state of the block). Their frame: every register, the mode,
OBUF byte by byte, TX's calls and every input stay as they were; ENC leaves RASTER's buffer alone too, and RASTER leaves
every offset of `out` but those it computes. -/
def Obligations.EncAndRasterFrame : Prop :=
  (∀ (b : Byte) (s t : State), exec (.enc b) s = .next t →
    t = { s with rsp := t.rsp } ∧ ∀ a, Memory.read t.obuf a = Memory.read s.obuf a) ∧
  (∀ (cpp : Nat) (inBuf outBuf : List Byte) (placement : Placement) (s t : State),
    exec (.raster cpp inBuf outBuf placement) s = .next t →
    t = { s with rsp := t.rsp, rasterOut := t.rasterOut } ∧
    (∀ a, Memory.read t.obuf a = Memory.read s.obuf a) ∧
    ∀ a, (∀ p c j, p < inBuf.length / cpp → c < cpp → j < 3 → a ≠ outOffset cpp p c + j) →
      Memory.read t.rasterOut a = Memory.read (Memory.ofBytes outBuf) a)

/-! ## CONFIG, WRITE, HALT (42_device_handle.md) -/

/-- 42_device_handle.md, CONFIG. With a non-zero speed in a block that is not configured it completes: the registers hold
the operands, `OBUF` has its full length and some contents (decision D8: nothing is said of them), and nothing else
changes but the model's counter of draws (log 8). With speed 0 it is ConfigError and nothing is written; in a
configured block it is refused (decision D7). -/
def Obligations.ConfigConstructsTheHandle : Prop :=
  ∀ (n v : Nat) (w : Bool) (s : State),
    (s.configured = false → v ≠ 0 →
      ∃ bytes : List Byte, bytes.length = 3 * (if w then 4 else 3) * n ∧
        ∃ t, exec (.config n v w) s = .next t ∧
          t = { s with
            configured := true, pixCount := n, white := w, speedHz := v, obuf := Memory.ofBytes bytes,
            draws := s.draws + 1, rsp := some .ok } ∧
          t.cpp = (if w then 4 else 3) ∧ t.bitPeriod = 1 / (v : Rat)) ∧
    (s.configured = false → exec (.config n 0 w) s = .next { s with rsp := some (.error .configError) }) ∧
    (s.configured = true → exec (.config n v w) s = .refused .alreadyConfigured)

/-- R191. ConfigError is raised by CONFIG only, when and only when the speed is 0; the state is the one before the command;
its status is 1. -/
def Obligations.ConfigErrorRule : Prop :=
  (∀ (i : Instr) (s t : State), exec i s = .next t → t.rsp = some (.error .configError) →
    ∃ n w, i = .config n 0 w ∧ t = { s with rsp := some (.error .configError) } ∧ t.configured = false) ∧
  (∀ (n : Nat) (w : Bool) (s : State), s.configured = false →
    exec (.config n 0 w) s = .next { s with rsp := some (.error .configError) }) ∧
  (Response.error .configError).status = 1#3

/-- R192. LengthError is raised by WRITE only, when and only when the length is not a multiple of `cfg.CPP`; the state is
the one before the command, so `OBUF` is unchanged and TX is not called; a retry acts as if the failed WRITE had not been;
its status is 2. -/
def Obligations.LengthErrorRule : Prop :=
  (∀ (i : Instr) (s t : State), exec i s = .next t → t.rsp = some (.error .lengthError) →
    ∃ bs, i = .write bs ∧ bs.length % s.cpp ≠ 0 ∧ t = { s with rsp := some (.error .lengthError) } ∧
      t.obuf = s.obuf ∧ t.txCalls = s.txCalls) ∧
  (∀ (bs : List Byte) (s : State), s.configured = true → bs.length % s.cpp ≠ 0 →
    exec (.write bs) s = .next { s with rsp := some (.error .lengthError) } ∧
    ∀ retry : List Byte,
      exec (.write retry) { s with rsp := some (.error .lengthError) } = exec (.write retry) s) ∧
  (Response.error .lengthError).status = 2#3

/-- R193. NotSupportedError is raised by HALT and WRITE only, when TX is absent at the point the command would call it; TX
is not called; HALT changes nothing, and after WRITE `OBUF` holds the newly rastered frame (as R193 says; the order of
WRITE's checks is decision D11 too); its status is 3. -/
def Obligations.NotSupportedErrorRule : Prop :=
  (∀ (i : Instr) (s t : State), exec i s = .next t → t.rsp = some (.error .notSupportedError) →
    (i = .halt ∨ ∃ bs, i = .write bs) ∧ s.txPresent = false ∧ t.txCalls = s.txCalls) ∧
  (∀ s : State, s.configured = true → s.txPresent = false →
    exec .halt s = .next { s with rsp := some (.error .notSupportedError) }) ∧
  (∀ (bs : List Byte) (s : State), s.configured = true → s.txPresent = false → bs.length = s.cpp * s.pixCount →
    0 < bs.length → s.obuf.hasLength (3 * s.cpp * s.pixCount) = true →
    ∃ out, isFrame s.cpp bs out ∧
      exec (.write bs) s = .next { s with obuf := out, rsp := some (.error .notSupportedError) }) ∧
  (Response.error .notSupportedError).status = 3#3

/-- R194. A transmission error is raised by WRITE and HALT only, when TX answered it, and is passed through unmodified;
`OBUF` holds the frame that was handed over and the configuration is unchanged; its status is 4. -/
def Obligations.TxErrorRule : Prop :=
  (∀ (i : Instr) (s t : State) (e : TxErr), exec i s = .next t → t.rsp = some (.error (.txError e)) →
    (i = .halt ∨ ∃ bs, i = .write bs) ∧ s.txReply = .err e ∧
    t.txCalls = s.txCalls ++ [{ bits := stream t.obuf, period := 1 / (s.speedHz : Rat) }] ∧
    t.configured = s.configured ∧ t.pixCount = s.pixCount ∧ t.white = s.white ∧ t.speedHz = s.speedHz) ∧
  (∀ e : TxErr, (Response.error (.txError e)).status = 4#3 ∧ (Response.error (.txError e)).txErr = some e)

/-- R162. The document's testable properties of the handle. -/
def Obligations.HandleTestableProperties : Prop :=
  (∀ (bs : List Byte) (s : State), s.configured = true → bs.length % s.cpp ≠ 0 →
    ∃ t, exec (.write bs) s = .next t ∧ t.rsp = some (.error .lengthError) ∧ t.obuf = s.obuf) ∧
  (∀ (n : Nat) (w : Bool) (s : State), s.configured = false →
    ∃ t, exec (.config n 0 w) s = .next t ∧ t.rsp = some (.error .configError)) ∧
  (∀ (n v : Nat) (w : Bool) (s : State), s.configured = false → 0 < v →
    ∃ t, exec (.config n v w) s = .next t ∧ t.rsp = some .ok ∧ t.bitPeriod = 1 / (v : Rat))

/-- 42_device_handle.md, WRITE. A whole frame on a configured block whose TX is present and answers `ok` completes: `OBUF`
is the frame's encoding, TX was called once with its bits and the period, and the response is `Ok(L)`. -/
def Obligations.WriteSendsTheFrame : Prop :=
  ∀ (bs : List Byte) (s : State), s.configured = true → bs.length = s.cpp * s.pixCount → 0 < bs.length →
    s.obuf.hasLength (3 * s.cpp * s.pixCount) = true → s.txPresent = true → s.txReply = .ok →
    ∃ out, isFrame s.cpp bs out ∧
      exec (.write bs) s = .next { s.consumeReply with
        obuf := out
        txCalls := s.txCalls ++ [{ bits := stream out, period := 1 / (s.speedHz : Rat) }]
        rsp := some (.okCount bs.length) }

/-- 42_device_handle.md, HALT (the spec's own decision D13, log 20). On a configured block of at least one pixel whose TX is present and answers
`ok` it completes: `OBUF` is `92 49 24` for every channel byte, TX was called once with it, and the response is `Ok`. -/
def Obligations.HaltSendsTheDarkFrame : Prop :=
  ∀ s : State, s.configured = true → 0 < s.pixCount → s.obuf.hasLength (3 * s.cpp * s.pixCount) = true →
    s.txPresent = true → s.txReply = .ok →
    ∃ out, out = Memory.ofBytes ((List.replicate (s.cpp * s.pixCount) [0x92#8, 0x49#8, 0x24#8]).flatten) ∧
      exec .halt s = .next { s.consumeReply with
        obuf := out
        txCalls := s.txCalls ++ [{ bits := stream out, period := 1 / (s.speedHz : Rat) }]
        rsp := some .ok }

/-- 43_external_interfaces.md, TX (decision D16). The other answers of TX: an error ends WRITE and HALT in TxError with the
new frame in `OBUF`; without an answer both have made their call and wait, with no response (R182; the field `waiting` is
log 6). What `OBUF` holds after TxError, and that HALT sends the encoded zero frame through `OBUF`, are the spec's own
decisions D11 and D13 (log 20). -/
def Obligations.HandoffWithoutSuccess : Prop :=
  ∀ (bs : List Byte) (s : State), s.configured = true → bs.length = s.cpp * s.pixCount → 0 < bs.length →
    s.obuf.hasLength (3 * s.cpp * s.pixCount) = true → s.txPresent = true →
    (∀ e, s.txReply = .err e →
      (∃ out, isFrame s.cpp bs out ∧ exec (.write bs) s = .next { s.consumeReply with
        obuf := out
        txCalls := s.txCalls ++ [{ bits := stream out, period := 1 / (s.speedHz : Rat) }]
        rsp := some (.error (.txError e)) }) ∧
      (∃ out, isFrame s.cpp (List.replicate (s.cpp * s.pixCount) 0#8) out ∧
        exec .halt s = .next { s.consumeReply with
          obuf := out
          txCalls := s.txCalls ++ [{ bits := stream out, period := 1 / (s.speedHz : Rat) }]
          rsp := some (.error (.txError e)) })) ∧
    (s.txReply = .silent →
      (∃ out, isFrame s.cpp bs out ∧ exec (.write bs) s = .next { s.consumeReply with
        obuf := out
        txCalls := s.txCalls ++ [{ bits := stream out, period := 1 / (s.speedHz : Rat) }]
        waiting := true
        rsp := none }) ∧
      (∃ out, isFrame s.cpp (List.replicate (s.cpp * s.pixCount) 0#8) out ∧
        exec .halt s = .next { s.consumeReply with
          obuf := out
          txCalls := s.txCalls ++ [{ bits := stream out, period := 1 / (s.speedHz : Rat) }]
          waiting := true
          rsp := none }))

/-- 43_external_interfaces.md, blocking (its R182; the field `waiting` and that a waiting step leaves the state as it is are
log 6). A WRITE that passes its length check and a HALT, where TX is
present and never answers, have made exactly one call, and from then on the instance waits for ever:
no later step takes a command, calls TX again, answers or times out. So does every state that waits. -/
def Obligations.AnUnansweredCallWaitsForEver : Prop :=
  (∀ (i : Instr) (s t : State), ((∃ bs, i = .write bs) ∨ i = .halt) → s.unmarked → s.txPresent = true →
    s.txReply = .silent → exec i s = .next t → t.rsp ≠ some (.error .lengthError) →
    t.waiting = true ∧ t.rsp = none ∧ t.txCalls.length = s.txCalls.length + 1 ∧ ∀ n, runFor n t = t) ∧
  (∀ s : State, s.unmarked → s.waiting = true → step s = .next s ∧ ∀ n, runFor n s = s)

/-- 30_encoding.md, section 6. HALT is a WRITE of the all-zero frame with a different order of checks: where TX is present
and the frame is not empty the two differ in their response only. That HALT sends the encoded zero frame through `OBUF` is
the spec's own decision D13 (log 20). -/
def Obligations.HaltEqualsWriteOfZeros : Prop :=
  ∀ s : State, s.configured = true → s.txPresent = true → 0 < s.pixCount →
    (∀ t, exec .halt s = .next t → ∃ t', exec (.write (List.replicate (s.cpp * s.pixCount) 0#8)) s = .next t' ∧
      { t with rsp := none } = { t' with rsp := none }) ∧
    (∀ t', exec (.write (List.replicate (s.cpp * s.pixCount) 0#8)) s = .next t' → ∃ t, exec .halt s = .next t ∧
      { t with rsp := none } = { t' with rsp := none }) ∧
    (∀ f, exec .halt s = .fault f ↔ exec (.write (List.replicate (s.cpp * s.pixCount) 0#8)) s = .fault f)

/-- 42_device_handle.md, WRITE and HALT: their frame. The mode, the registers, the marks, TX's presence, the pending
commands and RASTER's buffer stay; the instance begins to wait only if TX does not answer (log 6); in `OBUF` only the bytes of the frame's patterns may change; a WRITE that ends in
LengthError and a HALT without TX change nothing but the response. -/
def Obligations.WriteAndHaltFrame : Prop :=
  ∀ (i : Instr) (s t : State), s.handleOk → ((∃ bs, i = .write bs) ∨ i = .halt) → exec i s = .next t →
    t = { s with
      obuf := t.obuf, rsp := t.rsp, txCalls := t.txCalls, txScript := t.txScript, draws := t.draws
      waiting := t.waiting } ∧
    (t.waiting = s.waiting ∨ (t.waiting = true ∧ s.txPresent = true ∧ s.txReply = .silent)) ∧
    (∀ a, (∀ p c j, p < s.pixCount → c < s.cpp → j < 3 → a ≠ outOffset s.cpp p c + j) →
      Memory.read t.obuf a = Memory.read s.obuf a) ∧
    (t.rsp = some (.error .lengthError) ∨ (i = .halt ∧ s.txPresent = false) →
      (∀ a, Memory.read t.obuf a = Memory.read s.obuf a) ∧ t = { s with rsp := t.rsp })

/-- 42_device_handle.md, WRITE, corner cases. The same frame written twice leaves the same `OBUF` and makes two equal
calls of TX. -/
def Obligations.WriteTwiceSendsTwice : Prop :=
  ∀ (bs : List Byte) (s : State) (rest : List TxReply), s.configured = true → bs.length = s.cpp * s.pixCount →
    0 < bs.length → s.obuf.hasLength (3 * s.cpp * s.pixCount) = true → s.txPresent = true →
    s.txScript = .ok :: .ok :: rest →
    ∃ t u c, exec (.write bs) s = .next t ∧ exec (.write bs) t = .next u ∧ u.obuf = t.obuf ∧
      u.txCalls = s.txCalls ++ [c, c] ∧ u.txScript = rest ∧ u.rsp = some (.okCount bs.length)

/-- 42_device_handle.md, bit period (decision D15), and 43_external_interfaces.md, duration (its R186, which the spec
derives). The period TX is handed is exactly `1 / cfg.SPEED_HZ`, and a frame lasts `24 * CPP * PIXCOUNT / SPEED_HZ` s. -/
def Obligations.BitPeriodIsExact : Prop :=
  ∀ (i : Instr) (s t : State), s.handleOk → exec i s = .next t →
    (t.txCalls = s.txCalls ∨
      ∃ c, t.txCalls = s.txCalls ++ [c] ∧ c.period * (s.speedHz : Rat) = 1 ∧
        c.bits.length = 24 * s.cpp * s.pixCount ∧
        c.duration = (24 * s.cpp * s.pixCount : Rat) / (s.speedHz : Rat))

/-- 60_exceptions.md, priority (its R199, which the spec derives; decisions D6, D7, D10, D13). Which outcome comes first
when several conditions hold. -/
def Obligations.ConditionsHaveThisPriority : Prop :=
  (∀ (n v : Nat) (w : Bool) (s : State), s.configured = true → exec (.config n v w) s = .refused .alreadyConfigured) ∧
  (∀ (bs : List Byte) (s : State),
    (s.configured = false → exec (.write bs) s = .refused .notConfigured) ∧
    (s.configured = true → bs.length % s.cpp ≠ 0 →
      exec (.write bs) s = .next { s with rsp := some (.error .lengthError) }) ∧
    (s.configured = true → bs.length % s.cpp = 0 → bs.length ≠ s.cpp * s.pixCount ∨ bs.length = 0 →
      exec (.write bs) s = .fault .frameLengthMismatch)) ∧
  (∀ s : State,
    (s.configured = false → exec .halt s = .refused .notConfigured) ∧
    (s.configured = true → s.txPresent = false →
      exec .halt s = .next { s with rsp := some (.error .notSupportedError) }) ∧
    (s.configured = true → s.txPresent = true → s.pixCount = 0 → exec .halt s = .fault .frameLengthMismatch))

/-- 60_exceptions.md, section 1 (decision D26). A command stops only in the cases of the spec's
table. -/
def Obligations.OnlyTheListedStops : Prop :=
  ∀ (i : Instr) (s : State), s.handleOk →
    (∀ f, exec i s = .fault f →
      (∃ bs, i = .write bs ∧ s.configured = true ∧ f = .frameLengthMismatch ∧ bs.length % s.cpp = 0 ∧
        (bs.length ≠ s.cpp * s.pixCount ∨ bs.length = 0)) ∨
      (i = .halt ∧ s.configured = true ∧ f = .frameLengthMismatch ∧ s.pixCount = 0 ∧ s.txPresent = true) ∨
      (∃ cpp a b pl, i = .raster cpp a b pl ∧ f = .rasterPrecondition ∧
        (a.length = 0 ∨ a.length % cpp ≠ 0 ∨ b.length ≠ 3 * a.length))) ∧
    (∀ r, exec i s = .refused r →
      (∃ cpp a b pl, i = .raster cpp a b pl ∧ r = .badChannelCount ∧ cpp ≠ 3 ∧ cpp ≠ 4) ∨
      (∃ cpp a b, i = .raster cpp a b .overlapping ∧ r = .aliasedBuffers) ∨
      (((∃ bs, i = .write bs) ∨ i = .halt) ∧ r = .notConfigured ∧ s.configured = false) ∨
      (∃ n v w, i = .config n v w ∧ r = .alreadyConfigured ∧ s.configured = true))

/-- R195. ENC and RASTER raise none of the errors. -/
def Obligations.EncodingErrorsDoNotExist : Prop :=
  (∀ (b : Byte) (s : State), ∃ t p, exec (.enc b) s = .next t ∧ t.rsp = some (.okPattern p)) ∧
  (∀ (cpp : Nat) (inBuf outBuf : List Byte) (placement : Placement) (s t : State),
    exec (.raster cpp inBuf outBuf placement) s = .next t → ∀ e, t.rsp ≠ some (.error e))

/-- 60_exceptions.md, section 1 (decisions D4, D12). Every command that ends answers one of its own statuses, with the
count `L` for a successful WRITE and 0 otherwise; only a WRITE or a HALT that TX never answers does not end (log 6). -/
def Obligations.ResponsesOfEachCommand : Prop :=
  ∀ (i : Instr) (s t : State), exec i s = .next t →
    (((∃ bs, i = .write bs) ∨ i = .halt) ∧ s.txPresent = true ∧ s.txReply = .silent ∧ t.waiting = true ∧
      t.rsp = none) ∨
    ∃ r, t.rsp = some r ∧
      match i with
      | .enc b => r.status = 0#3 ∧ r.pattern = some (enc b) ∧ r.count = 0
      | .raster _ _ _ _ => r.status = 0#3 ∧ r.pattern = none ∧ r.count = 0
      | .config _ v _ => r.status = (if v = 0 then 1#3 else 0#3) ∧ r.count = 0
      | .write bs =>
        (r.status = 0#3 ∧ r.count = bs.length ∧ bs.length = s.cpp * s.pixCount) ∨
        ((r.status = 2#3 ∨ r.status = 3#3 ∨ r.status = 4#3) ∧ r.count = 0)
      | .halt => (r.status = 0#3 ∨ r.status = 3#3 ∨ r.status = 4#3) ∧ r.count = 0

/-! ## The whole machine (10_state.md, 42_device_handle.md) -/

/-- R25. From a configured state no command changes a configuration register or the length of `OBUF`, CONFIG is refused
(as R25 says; which refusal it is, is decision D7), and in any state no command but CONFIG writes the registers. -/
def Obligations.ConfigurationIsImmutable : Prop :=
  (∀ (i : Instr) (s t : State), exec i s = .next t → (s.configured = true ∨ ∀ n v w, i ≠ .config n v w) →
    t.pixCount = s.pixCount ∧ t.white = s.white ∧ t.speedHz = s.speedHz ∧
    t.obuf.map Prod.fst = s.obuf.map Prod.fst) ∧
  (∀ (n v : Nat) (w : Bool) (s : State), s.configured = true →
    exec (.config n v w) s = .refused .alreadyConfigured) ∧
  (∀ (n : Nat) (s : State), s.configured = true →
    (runFor n s).pixCount = s.pixCount ∧ (runFor n s).white = s.white ∧ (runFor n s).speedHz = s.speedHz ∧
    (runFor n s).obuf.length = s.obuf.length)

/-- R150. The only change of the mode is from 0 to 1, made by a successful CONFIG; nothing leads back; the reset state has
mode 0. -/
def Obligations.TheModeOnlyTurnsOn : Prop :=
  State.reset.configured = false ∧
  (∀ (i : Instr) (s t : State), exec i s = .next t →
    t.configured = s.configured ∨
    (s.configured = false ∧ t.configured = true ∧ t.rsp = some .ok ∧ ∃ n v w, i = .config n v w)) ∧
  (∀ (n v : Nat) (w : Bool) (s t : State), exec (.config n v w) s = .next t → t.rsp = some .ok →
    s.configured = false ∧ t.configured = true) ∧
  (∀ (n : Nat) (s : State), s.configured = true → (runFor n s).configured = true)

/-- 42_device_handle.md, side effects, and 43_external_interfaces.md, TX (decision D16). No command but WRITE and HALT
calls TX or writes a byte of an existing `OBUF`; each calls it at most once, with the stream of the `OBUF` it leaves and
the period. -/
def Obligations.OnlyWriteAndHaltCallTx : Prop :=
  ∀ (i : Instr) (s t : State), exec i s = .next t →
    (((∃ bs, i = .write bs) ∨ i = .halt) ∧
      (t.txCalls = s.txCalls ∨
        t.txCalls = s.txCalls ++ [{ bits := stream t.obuf, period := 1 / (s.speedHz : Rat) }])) ∨
    (t.txCalls = s.txCalls ∧ t.txScript = s.txScript ∧ (t.obuf = s.obuf ∨ ∃ n v w, i = .config n v w))

/-- 00_scope.md, section 3, and 43_external_interfaces.md, availability (decision D17). `TX_PRESENT` is constant for the life
of the instance: no command and no step changes it, and a run from reset with an argument `b` has it at `b`. -/
def Obligations.TxPresenceIsConstant : Prop :=
  (∀ (i : Instr) (s t : State), exec i s = .next t → t.txPresent = s.txPresent) ∧
  (∀ (n : Nat) (s : State), (runFor n s).txPresent = s.txPresent) ∧
  ∀ (n : Nat) (b : Bool) (commands : List Command),
    (runFor n { State.reset with txArgument := some b, pending := commands }).txPresent = b

/-- 10_state.md, section 4 (decision D5). The values the spec gives for reset. -/
def Obligations.ResetLeavesNoHandle : Prop :=
  State.reset.configured = false ∧ State.reset.obuf = [] ∧ State.reset.faulted = none ∧ State.reset.refused = none

/-- 10_state.md, sections 2 and 4. The invariant holds at reset. -/
def Obligations.InvariantHoldsAtReset : Prop := State.reset.inv

/-- 10_state.md, section 2, and 43_external_interfaces.md. Every step keeps the invariant: the buffer has the length the
registers say (none before CONFIG), the speed is not 0 once written, buffers stay canonical, TX is never handed an
empty sequence or a period that is not positive, and an instance that waits has handed over its `OBUF` (log 6). -/
def Obligations.EveryStepKeepsTheInvariant : Prop :=
  ∀ s t : State, s.inv → step s = .next t → t.inv

/-- The same over runs: from reset with any commands pending, any answers of TX, TX present, absent or left open, any draws,
and through any faults and refusals that are recorded, every state has the invariant. -/
def Obligations.EveryRunKeepsTheInvariant : Prop :=
  ∀ (n : Nat) (commands : List Command) (script : List TxReply) (present : Option Bool) (draws : Nat),
    (runFor n { State.reset with
      pending := commands, txScript := script, txArgument := present, draws := draws }).inv

/-- 10_state.md, section 2 (its R28, which the spec derives). After a WRITE that passed its length check and after a HALT
with TX present every aligned triple of `OBUF` is a valid pattern. -/
def Obligations.RasteredFrameIsValid : Prop :=
  ∀ (i : Instr) (s t : State), s.handleOk → exec i s = .next t →
    ((∃ bs, i = .write bs) ∧ t.rsp ≠ some (.error .lengthError)) ∨ (i = .halt ∧ s.txPresent = true) →
    t.obuf.validFrame (t.cpp * t.pixCount)

/-- 10_state.md, section 2 (its R28, which the spec derives). Once a configured block's `OBUF` holds a valid frame, every
step leaves it with one. -/
def Obligations.ValidFrameIsKept : Prop :=
  ∀ s t : State, s.handleOk → s.configured = true → s.obuf.validFrame (s.cpp * s.pixCount) → step s = .next t →
    t.handleOk ∧ t.configured = true ∧ t.obuf.validFrame (t.cpp * t.pixCount)

/-- 10_state.md, section 4 (decision D5, log 3). While the block is not configured no command reads the configuration
registers: with other values in them it has the same outcome. -/
def Obligations.UnwrittenRegistersAreNeverRead : Prop :=
  ∀ (i : Instr) (s : State) (n v : Nat) (w : Bool), s.configured = false →
    (∀ f, exec i s = .fault f ↔ exec i { s with pixCount := n, white := w, speedHz := v } = .fault f) ∧
    (∀ r, exec i s = .refused r ↔ exec i { s with pixCount := n, white := w, speedHz := v } = .refused r) ∧
    (∀ t, exec i s = .next t →
      (t.configured = true ∧ exec i { s with pixCount := n, white := w, speedHz := v } = .next t) ∨
      (t.configured = false ∧ exec i { s with pixCount := n, white := w, speedHz := v } =
        .next { t with pixCount := n, white := w, speedHz := v }))

/-- 10_state.md, section 3 (its R32 (f), which the spec derives). Nothing reads the last response. -/
def Obligations.LastResponseIsNeverRead : Prop :=
  ∀ (i : Instr) (s : State) (r : Option Response), exec i { s with rsp := r } = exec i s

/-! ## Steps, marks and commands (00_scope.md, 10_state.md, 30_encoding.md) -/

/-- 00_scope.md, section 4, and log 2. A step of a state without marks that does not wait for TX takes the next pending
command, decodes it and runs it with the rest left pending. -/
def Obligations.StepRunsTheDecodedCommand : Prop :=
  ∀ (s : State) (c : Command) (rest : List Command) (i : Instr), s.faulted = none → s.refused = none →
    s.waiting = false → s.pending = c :: rest → decode c = .instr i → step s = exec i { s with pending := rest }

/-- 30_encoding.md, section 5 (decision D30), and log 2. A reserved code is refused, and with nothing pending the block
waits. A word of the table put first is what the next step runs. -/
def Obligations.StepWaitsAndRefusesReservedCodes : Prop :=
  (∀ s : State, s.faulted = none → s.refused = none → s.waiting = false →
    (s.pending = [] → step s = .next s) ∧
    (∀ c rest, s.pending = c :: rest → 5 ≤ c.op.toNat → step s = .refused .reservedCommand)) ∧
  (∀ (s : State) (w : Nat) (i : Instr), decodeTableWord 8 w = some i →
    step (s.withFetchWord 8 w) = exec i { s with faulted := none, refused := none, waiting := false })

/-- 10_state.md, section 3 (its R34, decision D26). A stop sets its mark, and a mark is never cleared. That every later step
of a marked state leaves it as it is and stops again for the same reason is the model's choice (log 14, DEDUCED): R34 says
only that the mark is never cleared, and R13 promises nothing afterwards. -/
def Obligations.MarksAreSticky : Prop :=
  (∀ (s : State) (f : Fault), step s = .fault f → (advance s).faulted = some f) ∧
  (∀ (s : State) (r : Refusal), step s = .refused r → (advance s).refused = some r) ∧
  (∀ (n : Nat) (s : State) (f : Fault), s.faulted = some f → runFor n s = s ∧ step s = .fault f) ∧
  (∀ (n : Nat) (s : State) (r : Refusal), s.faulted = none → s.refused = some r →
    runFor n s = s ∧ step s = .refused r)

/-- 30_encoding.md, section 5 (decision D2). Decoding an encoded well-formed instruction gives it back, with every operand;
and a command decodes to it exactly when it carries its code and, in the fields the code names, its operands. -/
def Obligations.DecodeOfEncode : Prop :=
  ∀ i : Instr, i.wf = true → decode (encode i) = .instr i ∧
    ∀ c : Command, decode c = .instr i ↔
      c.op = (encode i).op ∧
      match i with
      | .enc b => c.encIn = b
      | .raster cpp inBuf outBuf placement =>
        c.cpp.toNat = cpp ∧ c.ibuf = inBuf ∧ c.outBuf = outBuf ∧ c.placement = placement
      | .config n v w => c.pixCount = n ∧ c.speedHz = v ∧ c.white = w
      | .write bs => c.ibuf = bs
      | .halt => True

/-- 30_encoding.md, section 5 (decisions D2, D30). What the decoder reads from a command is well formed, has the command's
code, and its own encoding decodes to it; a command is rejected exactly when its code is 5, 6 or 7. -/
def Obligations.DecodedCommandsAreWellFormed : Prop :=
  ∀ c : Command,
    (∀ i, decode c = .instr i → i.wf = true ∧ (encode i).op = c.op ∧ decode (encode i) = .instr i) ∧
    (decode c = .rejected .reservedCommand ↔ c.op = 0b101#3 ∨ c.op = 0b110#3 ∨ c.op = 0b111#3)

/-- 30_encoding.md, section 5 (decision D2). Commands written out from the table decode to what they stand for, and the
table's rows do not overlap. -/
def Obligations.TableCommandsDecode : Prop :=
  decode { bareCommand 0b000#3 with encIn := 0xA5#8 } = .instr (.enc 0xA5#8) ∧
  decode { bareCommand 0b001#3 with cpp := 0b011#3, ibuf := [1#8, 2#8, 3#8], outBuf := [0#8] } =
    .instr (.raster 3 [1#8, 2#8, 3#8] [0#8] .independent) ∧
  decode { bareCommand 0b010#3 with pixCount := 2, speedHz := 800000, white := true } =
    .instr (.config 2 800000 true) ∧
  decode { bareCommand 0b011#3 with ibuf := [1#8, 2#8] } = .instr (.write [1#8, 2#8]) ∧
  decode (bareCommand 0b100#3) = .instr .halt ∧
  decode (bareCommand 0b101#3) = .rejected .reservedCommand ∧
  ∀ w, w < 8 → (opcodeTable.filter fun r => w &&& r.mask == r.pattern).length = if w < 5 then 1 else 0
end

