-- ==== Sys2Proof/Laws/BitEncoder.lean ====
section
/-! SUPPORT. What ENC, DEC and the pattern's bytes are, bit by bit. -/

namespace Sys2Proof.Machine

/-- ENC bit by bit (40_bit_encoder.md R110): position `3k + 2` is 1, `3k + 1` is source bit `k`, `3k` is 0. -/
theorem enc_getLsbD (b : Byte) (j : Nat) :
    (enc b).getLsbD j = decide (j < 24 ∧ (j % 3 = 2 ∨ j % 3 = 1 ∧ b.getLsbD (j / 3) = true)) := by
  by_cases hj : j < 24
  · have key : ∀ c : Fin 256, ∀ i : Fin 24, (enc (BitVec.ofNat 8 c)).getLsbD i =
        decide (i.val < 24 ∧ (i.val % 3 = 2 ∨ i.val % 3 = 1 ∧ (BitVec.ofNat 8 c).getLsbD (i / 3) = true)) := by
      decide +kernel
    simpa using key ⟨b.toNat, b.isLt⟩ ⟨j, hj⟩
  · rw [BitVec.getLsbD_of_ge _ _ (by omega)]
    simp [hj]

/-- DEC bit by bit (30_encoding.md R94). -/
theorem dec_getLsbD (p : Pattern) (k : Nat) (hk : k < 8) : (dec p).getLsbD k = p.getLsbD (3 * k + 1) := by
  simp [dec, hk]

/-- DEC undoes ENC (40_bit_encoder.md R113). -/
@[simp] theorem dec_enc (b : Byte) : dec (enc b) = b := by
  apply BitVec.eq_of_getLsbD_eq
  intro k hk
  rw [dec_getLsbD _ _ hk, enc_getLsbD]
  simp [show 3 * k + 1 < 24 by omega, show (3 * k + 1) / 3 = k by omega, show (3 * k + 1) % 3 = 1 by omega]

theorem enc_injective {a b : Byte} (h : enc a = enc b) : a = b := by
  rw [← dec_enc a, h, dec_enc]

theorem bytes3_length (p : Pattern) : (bytes3 p).length = 3 := rfl

/-- The three bytes of a pattern, put together, are the pattern (20_memory.md R53). -/
theorem bytes3_append (p : Pattern) : p.extractLsb' 16 8 ++ p.extractLsb' 8 8 ++ p.extractLsb' 0 8 = p := by
  apply BitVec.eq_of_getLsbD_eq
  intro j hj
  simp only [BitVec.getLsbD_append, BitVec.getLsbD_extractLsb']
  by_cases h : j < 8
  · simp [h]
  · by_cases h' : j - 8 < 8
    · simp [h, h', show 8 + (j - 8) = j by omega]
    · simp [h, h', show 16 + (j - 8 - 8) = j by omega, show j - 8 - 8 < 8 by omega]

/-- Every result of ENC is a valid pattern (40_bit_encoder.md R111). -/
theorem validPattern_enc (b : Byte) : validPattern (enc b) = true := by
  have key : ∀ c : Fin 256, validPattern (enc (BitVec.ofNat 8 c)) = true := by decide +kernel
  simpa using key ⟨b.toNat, b.isLt⟩

end Sys2Proof.Machine
end

