-- ==== Sys2Proof/Laws/Memory.lean ====
section
/-! SUPPORT. The laws of buffers: what a read gives after a write, that every operation keeps the offsets and so the
canonical form, and how a buffer of known length is the list of its bytes. -/

namespace Sys2Proof.Machine

/-! The canonical form depends on the offsets alone. -/

theorem Memory.wf_iff (m : Memory) : m.wf = true ↔ (m.map Prod.fst).IsChain (· < ·) := by
  induction m with
  | nil => simp [Memory.wf]
  | cons x m ih =>
    rcases m with _ | ⟨y, m⟩
    · simp [Memory.wf]
    · simp_all [Memory.wf]

theorem Memory.wf_congr {m m' : Memory} (h : m'.map Prod.fst = m.map Prod.fst) : m'.wf = m.wf := by
  rw [Bool.eq_iff_iff, Memory.wf_iff, Memory.wf_iff, h]

theorem Memory.length_congr {m m' : Memory} (h : m'.map Prod.fst = m.map Prod.fst) : m'.length = m.length := by
  simpa using congrArg List.length h

/-! One byte. -/

theorem Memory.store_offsets {m m' : Memory} {a : Nat} {v : Byte} (h : Memory.store m a v = some m') :
    m'.map Prod.fst = m.map Prod.fst := by
  induction m generalizing m' with
  | nil => simp [Memory.store] at h
  | cons x m ih =>
    rcases x with ⟨x, b⟩
    simp only [Memory.store] at h
    split at h
    · cases h; rfl
    · obtain ⟨m₁, h₁, rfl⟩ := Option.map_eq_some_iff.mp h
      simp [ih h₁]

/-- Read after write: the written offset holds the byte, every other offset what it held. -/
theorem Memory.read_store {m m' : Memory} {a : Nat} {v : Byte} (h : Memory.store m a v = some m') (x : Nat) :
    Memory.read m' x = if x = a then some v else Memory.read m x := by
  induction m generalizing m' with
  | nil => simp [Memory.store] at h
  | cons y m ih =>
    rcases y with ⟨y, b⟩
    simp only [Memory.store] at h
    split at h
    · next hy =>
      cases h; subst hy
      by_cases hx : x = y
      · subst hx; simp [Memory.read]
      · simp [Memory.read, hx, Ne.symm hx]
    · next hy =>
      obtain ⟨m₁, h₁, rfl⟩ := Option.map_eq_some_iff.mp h
      simp only [Memory.read, ih h₁]
      by_cases hx : y = x
      · subst hx; simp [hy]
      · simp [hx]

theorem Memory.store_isSome {m : Memory} {a : Nat} (v : Byte) (h : a ∈ m.map Prod.fst) :
    ∃ m', Memory.store m a v = some m' := by
  induction m with
  | nil => simp at h
  | cons y m ih =>
    rcases y with ⟨y, b⟩
    by_cases hy : y = a
    · exact ⟨(y, v) :: m, if_pos hy⟩
    · obtain ⟨m', h'⟩ := ih (by simpa [Ne.symm hy] using h)
      exact ⟨(y, b) :: m', (if_neg hy).trans (by rw [h', Option.map_some])⟩

/-! Several bytes. -/

theorem Memory.storeAll_offsets {m m' : Memory} {a : Nat} {vs : List Byte}
    (h : Memory.storeAll m a vs = some m') : m'.map Prod.fst = m.map Prod.fst := by
  induction vs generalizing m a with
  | nil => simp [Memory.storeAll] at h; rw [h]
  | cons v vs ih =>
    obtain ⟨m₁, h₁, h₂⟩ := Option.bind_eq_some_iff.mp h
    rw [ih h₂, Memory.store_offsets h₁]

theorem Memory.storeAll_wf {m m' : Memory} {a : Nat} {vs : List Byte} (h : Memory.storeAll m a vs = some m') :
    m'.wf = m.wf :=
  Memory.wf_congr (Memory.storeAll_offsets h)

/-- Read after write of several bytes. -/
theorem Memory.read_storeAll {m m' : Memory} {a : Nat} {vs : List Byte}
    (h : Memory.storeAll m a vs = some m') (x : Nat) :
    Memory.read m' x = if a ≤ x ∧ x < a + vs.length then vs[x - a]? else Memory.read m x := by
  induction vs generalizing m a with
  | nil => simp [Memory.storeAll] at h; subst h; rw [if_neg (by simp only [List.length_nil]; omega)]
  | cons v vs ih =>
    obtain ⟨m₁, h₁, h₂⟩ := Option.bind_eq_some_iff.mp h
    rw [ih h₂, Memory.read_store h₁]
    by_cases hx : x = a
    · subst hx; simp
    · by_cases hr : a + 1 ≤ x ∧ x < a + 1 + vs.length
      · rw [if_pos hr, if_pos (by simp only [List.length_cons]; omega)]
        obtain ⟨k, rfl⟩ : ∃ k, x = a + 1 + k := ⟨x - (a + 1), by omega⟩
        simp [show a + 1 + k - a = k + 1 by omega]
      · rw [if_neg hr, if_neg hx, if_neg (by simp only [List.length_cons]; omega)]

theorem Memory.storeAll_isSome {m : Memory} {a : Nat} {vs : List Byte}
    (h : ∀ x, a ≤ x → x < a + vs.length → x ∈ m.map Prod.fst) : ∃ m', Memory.storeAll m a vs = some m' := by
  induction vs generalizing m a with
  | nil => exact ⟨m, rfl⟩
  | cons v vs ih =>
    obtain ⟨m₁, h₁⟩ := Memory.store_isSome v (h a (by omega) (by simp))
    obtain ⟨m₂, h₂⟩ := ih (m := m₁) (a := a + 1) (fun x hx hx' => by
      rw [Memory.store_offsets h₁]; exact h x (by omega) (by simp only [List.length_cons]; omega))
    exact ⟨m₂, by simp [Memory.storeAll, h₁, h₂]⟩

/-! A buffer of known length is the list of its bytes. -/

@[simp] theorem Memory.fromOffset_bytes (base : Nat) (bs : List Byte) : (Memory.fromOffset base bs).bytes = bs := by
  induction bs generalizing base with
  | nil => rfl
  | cons b bs ih => simpa [Memory.fromOffset, Memory.bytes] using ih (base + 1)

theorem Memory.fromOffset_offsets (base : Nat) (bs : List Byte) :
    (Memory.fromOffset base bs).map Prod.fst = List.range' base bs.length := by
  induction bs generalizing base with
  | nil => rfl
  | cons b bs ih => simp [Memory.fromOffset, ih, List.range'_succ]

@[simp] theorem Memory.ofBytes_bytes (bs : List Byte) : (Memory.ofBytes bs).bytes = bs :=
  Memory.fromOffset_bytes 0 bs

theorem Memory.ofBytes_offsets (bs : List Byte) : (Memory.ofBytes bs).map Prod.fst = List.range bs.length := by
  rw [Memory.ofBytes, Memory.fromOffset_offsets, List.range_eq_range']

@[simp] theorem Memory.ofBytes_length (bs : List Byte) : (Memory.ofBytes bs).length = bs.length := by
  simpa using congrArg List.length (Memory.ofBytes_offsets bs)

@[simp] theorem Memory.ofBytes_hasLength (bs : List Byte) : (Memory.ofBytes bs).hasLength bs.length = true := by
  simp [Memory.hasLength, Memory.ofBytes_offsets]

theorem Memory.hasLength_iff {m : Memory} {n : Nat} : m.hasLength n = true ↔ m.map Prod.fst = List.range n := by
  simp [Memory.hasLength]

theorem Memory.length_of_hasLength {m : Memory} {n : Nat} (h : m.hasLength n = true) : m.length = n := by
  simpa using congrArg List.length (Memory.hasLength_iff.mp h)

theorem Memory.wf_of_hasLength {m : Memory} {n : Nat} (h : m.hasLength n = true) : m.wf = true := by
  rw [Memory.wf_iff, Memory.hasLength_iff.mp h]
  exact (List.pairwise_lt_range).isChain

theorem Memory.mem_of_hasLength {m : Memory} {n a : Nat} (h : m.hasLength n = true) (ha : a < n) :
    a ∈ m.map Prod.fst := by
  rw [Memory.hasLength_iff.mp h]; simpa using ha

theorem Memory.eq_fromOffset {m : Memory} {base : Nat} (h : m.map Prod.fst = List.range' base m.length) :
    m = Memory.fromOffset base m.bytes := by
  induction m generalizing base with
  | nil => rfl
  | cons x m ih =>
    rcases x with ⟨x, b⟩
    simp only [List.map_cons, List.length_cons, List.range'_succ, List.cons.injEq] at h
    have := ih h.2
    rw [show Memory.bytes ((x, b) :: m) = b :: Memory.bytes m from rfl, Memory.fromOffset, ← this, h.1]

/-- A buffer of length `n` is made of its bytes. -/
theorem Memory.eq_ofBytes {m : Memory} {n : Nat} (h : m.hasLength n = true) : m = Memory.ofBytes m.bytes := by
  refine Memory.eq_fromOffset ?_
  rw [Memory.length_of_hasLength h, Memory.hasLength_iff.mp h, List.range_eq_range']

theorem Memory.read_fromOffset (base : Nat) (bs : List Byte) (a : Nat) :
    Memory.read (Memory.fromOffset base bs) a = if base ≤ a then bs[a - base]? else none := by
  induction bs generalizing base with
  | nil => simp [Memory.fromOffset, Memory.read]
  | cons b bs ih =>
    simp only [Memory.fromOffset, Memory.read, ih]
    by_cases h : base = a
    · subst h; simp
    · by_cases h' : base + 1 ≤ a
      · obtain ⟨k, rfl⟩ : ∃ k, a = base + 1 + k := ⟨a - (base + 1), by omega⟩
        simp [h, show base ≤ base + 1 + k by omega, show base + 1 + k - base = k + 1 by omega]
      · simp [h, h', show ¬ base ≤ a by omega]

@[simp] theorem Memory.read_ofBytes (bs : List Byte) (a : Nat) : Memory.read (Memory.ofBytes bs) a = bs[a]? := by
  simp [Memory.ofBytes, Memory.read_fromOffset]

theorem Memory.read_of_hasLength {m : Memory} {n : Nat} (h : m.hasLength n = true) (a : Nat) :
    Memory.read m a = m.bytes[a]? := by
  conv_lhs => rw [Memory.eq_ofBytes h]
  simp

/-- Two buffers of one length with the same bytes are the same buffer. -/
theorem Memory.ext_of_hasLength {m m' : Memory} {n : Nat} (h : m.hasLength n = true) (h' : m'.hasLength n = true)
    (hr : ∀ a, a < n → Memory.read m a = Memory.read m' a) : m = m' := by
  rw [Memory.eq_ofBytes h, Memory.eq_ofBytes h']
  congr 1
  apply List.ext_getElem?
  intro a
  rw [← Memory.read_of_hasLength h, ← Memory.read_of_hasLength h']
  by_cases ha : a < n
  · exact hr a ha
  · have l : m.bytes.length = n := by simpa [Memory.bytes] using Memory.length_of_hasLength h
    have l' : m'.bytes.length = n := by simpa [Memory.bytes] using Memory.length_of_hasLength h'
    rw [Memory.read_of_hasLength h, Memory.read_of_hasLength h',
      List.getElem?_eq_none (by omega), List.getElem?_eq_none (by omega)]

theorem freshBuffer_hasLength (draw n : Nat) : (freshBuffer draw n).hasLength n = true := by
  simpa [freshBuffer] using Memory.ofBytes_hasLength ((List.range n).map (Config.freeByte draw))

end Sys2Proof.Machine
end

