-- ==== Sys2Proof/Laws/FrameRasterizer.lean ====
section
/-! SUPPORT. What RASTER leaves in its output buffer. The loops are one fold over (pixel, channel) pairs; a fold over any
list of pairs writes the triples of those pairs and nothing else; over all pairs of a frame it leaves the frame. -/

namespace Sys2Proof.Machine

/-- The pairs (pixel, output channel) of a frame of `n` pixels, in the order of RASTER's loops. -/
def framePairs (cpp n : Nat) : List (Nat × Nat) :=
  (List.range n).flatMap fun p => (List.range cpp).map fun c => (p, c)

/-- RASTER's loop body over one pair. -/
def rasterPair (cpp : Nat) (inBuf : List Byte) (out : Memory) (q : Nat × Nat) : Option Memory :=
  rasterChannel cpp inBuf q.1 out q.2

/-- The byte RASTER leaves at an offset (30_encoding.md R90): byte `a % 3` of the pattern number `a / 3`, which is output
channel `a / 3 % cpp` of pixel `a / 3 / cpp`. -/
def frameByte (cpp : Nat) (inBuf : List Byte) (a : Nat) : Byte :=
  (bytes3 (enc (inBuf.getD (inOffset cpp (a / 3 / cpp) (a / 3 % cpp)) 0#8))).getD (a % 3) 0#8

/-- The frame RASTER leaves (30_encoding.md R90). -/
def frameBytes (cpp : Nat) (inBuf : List Byte) : List Byte :=
  (List.range (3 * inBuf.length)).map (frameByte cpp inBuf)

@[simp] theorem frameBytes_length (cpp : Nat) (inBuf : List Byte) :
    (frameBytes cpp inBuf).length = 3 * inBuf.length := by
  simp [frameBytes]

theorem mem_framePairs {cpp n : Nat} {q : Nat × Nat} : q ∈ framePairs cpp n ↔ q.1 < n ∧ q.2 < cpp := by
  rcases q with ⟨p, c⟩
  simp [framePairs]

theorem foldlM_framePairs {cpp : Nat} {inBuf : List Byte} (ps : List Nat) (out : Memory) :
    ps.foldlM (rasterPixel cpp inBuf) out =
      (ps.flatMap fun p => (List.range cpp).map fun c => (p, c)).foldlM (rasterPair cpp inBuf) out := by
  induction ps generalizing out with
  | nil => rfl
  | cons p ps ih =>
    rw [List.flatMap_cons, List.foldlM_append, List.foldlM_cons, List.foldlM_map]
    exact bind_congr fun m => ih m

/-- RASTER's two loops are one fold over the pairs of the frame. -/
theorem raster_eq_foldlM {cpp : Nat} {inBuf : List Byte} {out : Memory}
    (hi : goodInLength cpp inBuf.length) (ho : out.length = 3 * inBuf.length) :
    raster cpp inBuf out = (framePairs cpp (inBuf.length / cpp)).foldlM (rasterPair cpp inBuf) out := by
  rw [raster, if_pos ⟨hi, ho⟩, foldlM_framePairs, framePairs]

/-! Offsets. -/

theorem src_lt {cpp c : Nat} (hg : goodChannelCount cpp) (hc : c < cpp) : src c < cpp := by
  match c with
  | 0 => rcases hg with h | h <;> simp [src] <;> omega
  | 1 => simp [src]; omega
  | c + 2 => simpa [src] using hc

theorem src_src (c : Nat) : src (src c) = c := by
  match c with
  | 0 => rfl
  | 1 => rfl
  | c + 2 => rfl

/-- Offsets of a frame's pixels lie inside the frame. -/
theorem offset_lt {cpp len p c : Nat} (hm : len % cpp = 0) (hp : p < len / cpp) (hc : c < cpp) :
    cpp * p + c < len := by
  have h1 : cpp * (p + 1) ≤ cpp * (len / cpp) := Nat.mul_le_mul_left _ hp
  have h2 : cpp * (len / cpp) = len := Nat.mul_div_cancel' (Nat.dvd_of_mod_eq_zero hm)
  rw [Nat.mul_add] at h1
  omega

theorem inOffset_lt {cpp len p c : Nat} (hg : goodChannelCount cpp) (hm : len % cpp = 0) (hp : p < len / cpp)
    (hc : c < cpp) : inOffset cpp p c < len :=
  offset_lt hm hp (src_lt hg hc)

theorem outOffset_lt {cpp len p c j : Nat} (hm : len % cpp = 0) (hp : p < len / cpp) (hc : c < cpp) (hj : j < 3) :
    outOffset cpp p c + j < 3 * len := by
  have := offset_lt hm hp hc
  simp only [outOffset]
  omega

theorem outOffset_pixel {cpp p c : Nat} (hc : c < cpp) : (cpp * p + c) / cpp = p ∧ (cpp * p + c) % cpp = c := by
  constructor
  · rw [Nat.add_comm, Nat.add_mul_div_left _ _ (by omega), Nat.div_eq_of_lt hc, Nat.zero_add]
  · rw [Nat.add_comm, Nat.add_mul_mod_self_left, Nat.mod_eq_of_lt hc]

/-- The frame byte at offset `j` of the pattern of output channel `c` of pixel `p` (30_encoding.md R90). -/
theorem frameByte_outOffset {cpp p c j : Nat} (inBuf : List Byte) (hc : c < cpp) (hj : j < 3) :
    frameByte cpp inBuf (outOffset cpp p c + j) =
      (bytes3 (enc (inBuf.getD (inOffset cpp p c) 0#8))).getD j 0#8 := by
  have h := outOffset_pixel (cpp := cpp) (p := p) hc
  simp only [frameByte, outOffset, show (3 * (cpp * p + c) + j) / 3 = cpp * p + c by omega,
    show (3 * (cpp * p + c) + j) % 3 = j by omega, h.1, h.2]

/-- Every offset of a frame belongs to one triple. -/
theorem exists_outOffset {cpp len a : Nat} (hg : goodChannelCount cpp) (hm : len % cpp = 0) (ha : a < 3 * len) :
    ∃ p c j, p < len / cpp ∧ c < cpp ∧ j < 3 ∧ a = outOffset cpp p c + j := by
  have h0 : 0 < cpp := by rcases hg with h | h <;> omega
  refine ⟨a / 3 / cpp, a / 3 % cpp, a % 3, ?_, Nat.mod_lt _ h0, Nat.mod_lt _ (by omega), ?_⟩
  · rw [Nat.div_lt_iff_lt_mul h0, Nat.div_mul_cancel (Nat.dvd_of_mod_eq_zero hm)]
    omega
  · rw [outOffset, Nat.div_add_mod]
    omega

/-! The fold. -/

/-- One turn of RASTER's loop succeeds inside a frame, keeps the offsets, and writes exactly its triple. -/
theorem rasterPair_spec {cpp : Nat} {inBuf : List Byte} {out : Memory} {q : Nat × Nat}
    (hg : goodChannelCount cpp) (hm : inBuf.length % cpp = 0) (hq : q ∈ framePairs cpp (inBuf.length / cpp))
    (ho : out.hasLength (3 * inBuf.length) = true) :
    ∃ out', rasterPair cpp inBuf out q = some out' ∧ out'.map Prod.fst = out.map Prod.fst ∧
      ∀ a, Memory.read out' a =
        if outOffset cpp q.1 q.2 ≤ a ∧ a < outOffset cpp q.1 q.2 + 3 then some (frameByte cpp inBuf a)
        else Memory.read out a := by
  obtain ⟨hp, hc⟩ := mem_framePairs.mp hq
  have hin := inOffset_lt hg hm hp hc
  obtain ⟨out', h⟩ := Memory.storeAll_isSome (m := out) (a := outOffset cpp q.1 q.2)
    (vs := bytes3 (enc inBuf[inOffset cpp q.1 q.2])) (fun x hx hx' => by
      refine Memory.mem_of_hasLength ho ?_
      have := outOffset_lt (j := x - outOffset cpp q.1 q.2) hm hp hc (by rw [bytes3_length] at hx'; omega)
      omega)
  refine ⟨out', ?_, Memory.storeAll_offsets h, fun a => ?_⟩
  · simp [rasterPair, rasterChannel, inByte, hin, h]
  · rw [Memory.read_storeAll h, bytes3_length]
    split
    · next ha =>
      obtain ⟨j, rfl⟩ : ∃ j, a = outOffset cpp q.1 q.2 + j := ⟨a - outOffset cpp q.1 q.2, by omega⟩
      have hj : j < 3 := by omega
      rw [frameByte_outOffset inBuf hc hj, Nat.add_sub_cancel_left, List.getD_eq_getElem _ _ hin,
        List.getD_eq_getElem _ _ (by rw [bytes3_length]; exact hj), List.getElem?_eq_getElem]
    · rfl

/-- A fold of the loop body over pairs of a frame, in any order and with any repetition, succeeds, keeps the offsets and
writes exactly the triples of its pairs. -/
theorem foldlM_rasterPair_spec {cpp : Nat} {inBuf : List Byte} (hg : goodChannelCount cpp)
    (hm : inBuf.length % cpp = 0) (qs : List (Nat × Nat)) (hqs : ∀ q ∈ qs, q ∈ framePairs cpp (inBuf.length / cpp))
    {out : Memory} (ho : out.hasLength (3 * inBuf.length) = true) :
    ∃ out', qs.foldlM (rasterPair cpp inBuf) out = some out' ∧ out'.map Prod.fst = out.map Prod.fst ∧
      ∀ a, Memory.read out' a =
        if ∃ q ∈ qs, outOffset cpp q.1 q.2 ≤ a ∧ a < outOffset cpp q.1 q.2 + 3 then some (frameByte cpp inBuf a)
        else Memory.read out a := by
  induction qs generalizing out with
  | nil => exact ⟨out, rfl, rfl, fun a => by simp⟩
  | cons q qs ih =>
    obtain ⟨m, h, hk, hr⟩ := rasterPair_spec hg hm (hqs q (by simp)) ho
    have hm' : m.hasLength (3 * inBuf.length) = true := by
      rw [Memory.hasLength_iff, hk, Memory.hasLength_iff.mp ho]
    obtain ⟨out', h', hk', hr'⟩ := ih (fun q' hq' => hqs q' (by simp [hq'])) hm'
    refine ⟨out', by rw [List.foldlM_cons, h]; exact h', hk'.trans hk, fun a => ?_⟩
    rw [hr' a, hr a]
    simp only [List.mem_cons, exists_eq_or_imp]
    by_cases h1 : outOffset cpp q.1 q.2 ≤ a ∧ a < outOffset cpp q.1 q.2 + 3
    · rw [if_pos h1, ite_self, if_pos (Or.inl h1)]
    · simp only [h1, false_or, if_false]

/-- RASTER leaves the frame (30_encoding.md R90), whatever the buffer held. -/
theorem raster_eq {cpp : Nat} {inBuf : List Byte} {out : Memory} (hg : goodChannelCount cpp)
    (hi : goodInLength cpp inBuf.length) (ho : out.hasLength (3 * inBuf.length) = true) :
    raster cpp inBuf out = some (Memory.ofBytes (frameBytes cpp inBuf)) := by
  obtain ⟨out', h, hk, hr⟩ := foldlM_rasterPair_spec hg hi.2 _ (fun q hq => hq) ho
  rw [raster_eq_foldlM hi (Memory.length_of_hasLength ho), h]
  congr 1
  refine Memory.ext_of_hasLength (n := 3 * inBuf.length) ?_ ?_ fun a ha => ?_
  · rw [Memory.hasLength_iff, hk, Memory.hasLength_iff.mp ho]
  · simpa using Memory.ofBytes_hasLength (frameBytes cpp inBuf)
  · obtain ⟨p, c, j, hp, hc, hj, rfl⟩ := exists_outOffset hg hi.2 ha
    rw [hr, if_pos ⟨(p, c), mem_framePairs.mpr ⟨hp, hc⟩, by simp; omega⟩, Memory.read_ofBytes, frameBytes,
      List.getElem?_map, List.getElem?_range ha, Option.map_some]

/-- Where RASTER's preconditions do not hold it has no result (41_frame_rasterizer.md R135). -/
theorem raster_eq_none {cpp : Nat} {inBuf : List Byte} {out : Memory}
    (h : ¬ (goodInLength cpp inBuf.length ∧ goodOutLength inBuf.length out.length)) : raster cpp inBuf out = none :=
  if_neg h

/-- RASTER writes bytes in place: it keeps the offsets of its output buffer. -/
theorem raster_offsets {cpp : Nat} {inBuf : List Byte} {out out' : Memory} (h : raster cpp inBuf out = some out') :
    out'.map Prod.fst = out.map Prod.fst := by
  have key : ∀ (qs : List (Nat × Nat)) (m : Memory), qs.foldlM (rasterPair cpp inBuf) m = some out' →
      out'.map Prod.fst = m.map Prod.fst := by
    intro qs
    induction qs with
    | nil => intro m hm; cases hm; rfl
    | cons q qs ih =>
      intro m hm
      obtain ⟨m₁, h₁, h₂⟩ := Option.bind_eq_some_iff.mp (by simpa [List.foldlM_cons] using hm)
      obtain ⟨b, -, hb⟩ := Option.bind_eq_some_iff.mp h₁
      rw [ih m₁ h₂, Memory.storeAll_offsets hb]
  by_cases hp : goodInLength cpp inBuf.length ∧ goodOutLength inBuf.length out.length
  · exact key _ _ (by rwa [raster_eq_foldlM hp.1 hp.2] at h)
  · rw [raster_eq_none hp] at h; cases h

end Sys2Proof.Machine
end

