-- ==== Sys2Proof/Laws/State.lean ====
section
/-! SUPPORT. One lemma per field per update of the state, so that no proof unfolds a record update. -/

namespace Sys2Proof.Machine

variable (s : State)

/-! `State.answer`. -/

@[simp] theorem State.answer_configured (r : Response) : (s.answer r).configured = s.configured := rfl
@[simp] theorem State.answer_pixCount (r : Response) : (s.answer r).pixCount = s.pixCount := rfl
@[simp] theorem State.answer_white (r : Response) : (s.answer r).white = s.white := rfl
@[simp] theorem State.answer_speedHz (r : Response) : (s.answer r).speedHz = s.speedHz := rfl
@[simp] theorem State.answer_obuf (r : Response) : (s.answer r).obuf = s.obuf := rfl
@[simp] theorem State.answer_faulted (r : Response) : (s.answer r).faulted = s.faulted := rfl
@[simp] theorem State.answer_refused (r : Response) : (s.answer r).refused = s.refused := rfl
@[simp] theorem State.answer_txArgument (r : Response) : (s.answer r).txArgument = s.txArgument := rfl
@[simp] theorem State.answer_pending (r : Response) : (s.answer r).pending = s.pending := rfl
@[simp] theorem State.answer_txScript (r : Response) : (s.answer r).txScript = s.txScript := rfl
@[simp] theorem State.answer_draws (r : Response) : (s.answer r).draws = s.draws := rfl
@[simp] theorem State.answer_waiting (r : Response) : (s.answer r).waiting = s.waiting := rfl
@[simp] theorem State.answer_rsp (r : Response) : (s.answer r).rsp = some r := rfl
@[simp] theorem State.answer_rasterOut (r : Response) : (s.answer r).rasterOut = s.rasterOut := rfl
@[simp] theorem State.answer_txCalls (r : Response) : (s.answer r).txCalls = s.txCalls := rfl

/-! `State.await`. -/

@[simp] theorem State.await_configured : s.await.configured = s.configured := rfl
@[simp] theorem State.await_pixCount : s.await.pixCount = s.pixCount := rfl
@[simp] theorem State.await_white : s.await.white = s.white := rfl
@[simp] theorem State.await_speedHz : s.await.speedHz = s.speedHz := rfl
@[simp] theorem State.await_obuf : s.await.obuf = s.obuf := rfl
@[simp] theorem State.await_faulted : s.await.faulted = s.faulted := rfl
@[simp] theorem State.await_refused : s.await.refused = s.refused := rfl
@[simp] theorem State.await_txArgument : s.await.txArgument = s.txArgument := rfl
@[simp] theorem State.await_pending : s.await.pending = s.pending := rfl
@[simp] theorem State.await_txScript : s.await.txScript = s.txScript := rfl
@[simp] theorem State.await_draws : s.await.draws = s.draws := rfl
@[simp] theorem State.await_waiting : s.await.waiting = true := rfl
@[simp] theorem State.await_rsp : s.await.rsp = none := rfl
@[simp] theorem State.await_rasterOut : s.await.rasterOut = s.rasterOut := rfl
@[simp] theorem State.await_txCalls : s.await.txCalls = s.txCalls := rfl

/-! `State.recordCall`. -/

@[simp] theorem State.recordCall_configured (c : TxCall) : (s.recordCall c).configured = s.configured := rfl
@[simp] theorem State.recordCall_pixCount (c : TxCall) : (s.recordCall c).pixCount = s.pixCount := rfl
@[simp] theorem State.recordCall_white (c : TxCall) : (s.recordCall c).white = s.white := rfl
@[simp] theorem State.recordCall_speedHz (c : TxCall) : (s.recordCall c).speedHz = s.speedHz := rfl
@[simp] theorem State.recordCall_obuf (c : TxCall) : (s.recordCall c).obuf = s.obuf := rfl
@[simp] theorem State.recordCall_faulted (c : TxCall) : (s.recordCall c).faulted = s.faulted := rfl
@[simp] theorem State.recordCall_refused (c : TxCall) : (s.recordCall c).refused = s.refused := rfl
@[simp] theorem State.recordCall_txArgument (c : TxCall) : (s.recordCall c).txArgument = s.txArgument := rfl
@[simp] theorem State.recordCall_pending (c : TxCall) : (s.recordCall c).pending = s.pending := rfl
@[simp] theorem State.recordCall_txScript (c : TxCall) : (s.recordCall c).txScript = s.txScript := rfl
@[simp] theorem State.recordCall_draws (c : TxCall) : (s.recordCall c).draws = s.draws := rfl
@[simp] theorem State.recordCall_waiting (c : TxCall) : (s.recordCall c).waiting = s.waiting := rfl
@[simp] theorem State.recordCall_rsp (c : TxCall) : (s.recordCall c).rsp = s.rsp := rfl
@[simp] theorem State.recordCall_rasterOut (c : TxCall) : (s.recordCall c).rasterOut = s.rasterOut := rfl
@[simp] theorem State.recordCall_txCalls (c : TxCall) : (s.recordCall c).txCalls = s.txCalls ++ [c] := rfl

/-! `State.leaveRasterOut`. -/

@[simp] theorem State.leaveRasterOut_configured (m : Memory) : (s.leaveRasterOut m).configured = s.configured := rfl
@[simp] theorem State.leaveRasterOut_pixCount (m : Memory) : (s.leaveRasterOut m).pixCount = s.pixCount := rfl
@[simp] theorem State.leaveRasterOut_white (m : Memory) : (s.leaveRasterOut m).white = s.white := rfl
@[simp] theorem State.leaveRasterOut_speedHz (m : Memory) : (s.leaveRasterOut m).speedHz = s.speedHz := rfl
@[simp] theorem State.leaveRasterOut_obuf (m : Memory) : (s.leaveRasterOut m).obuf = s.obuf := rfl
@[simp] theorem State.leaveRasterOut_faulted (m : Memory) : (s.leaveRasterOut m).faulted = s.faulted := rfl
@[simp] theorem State.leaveRasterOut_refused (m : Memory) : (s.leaveRasterOut m).refused = s.refused := rfl
@[simp] theorem State.leaveRasterOut_txArgument (m : Memory) : (s.leaveRasterOut m).txArgument = s.txArgument := rfl
@[simp] theorem State.leaveRasterOut_pending (m : Memory) : (s.leaveRasterOut m).pending = s.pending := rfl
@[simp] theorem State.leaveRasterOut_txScript (m : Memory) : (s.leaveRasterOut m).txScript = s.txScript := rfl
@[simp] theorem State.leaveRasterOut_draws (m : Memory) : (s.leaveRasterOut m).draws = s.draws := rfl
@[simp] theorem State.leaveRasterOut_waiting (m : Memory) : (s.leaveRasterOut m).waiting = s.waiting := rfl
@[simp] theorem State.leaveRasterOut_rsp (m : Memory) : (s.leaveRasterOut m).rsp = s.rsp := rfl
@[simp] theorem State.leaveRasterOut_rasterOut (m : Memory) : (s.leaveRasterOut m).rasterOut = m := rfl
@[simp] theorem State.leaveRasterOut_txCalls (m : Memory) : (s.leaveRasterOut m).txCalls = s.txCalls := rfl

/-! `State.setObuf`. -/

@[simp] theorem State.setObuf_configured (m : Memory) : (s.setObuf m).configured = s.configured := rfl
@[simp] theorem State.setObuf_pixCount (m : Memory) : (s.setObuf m).pixCount = s.pixCount := rfl
@[simp] theorem State.setObuf_white (m : Memory) : (s.setObuf m).white = s.white := rfl
@[simp] theorem State.setObuf_speedHz (m : Memory) : (s.setObuf m).speedHz = s.speedHz := rfl
@[simp] theorem State.setObuf_obuf (m : Memory) : (s.setObuf m).obuf = m := rfl
@[simp] theorem State.setObuf_faulted (m : Memory) : (s.setObuf m).faulted = s.faulted := rfl
@[simp] theorem State.setObuf_refused (m : Memory) : (s.setObuf m).refused = s.refused := rfl
@[simp] theorem State.setObuf_txArgument (m : Memory) : (s.setObuf m).txArgument = s.txArgument := rfl
@[simp] theorem State.setObuf_pending (m : Memory) : (s.setObuf m).pending = s.pending := rfl
@[simp] theorem State.setObuf_txScript (m : Memory) : (s.setObuf m).txScript = s.txScript := rfl
@[simp] theorem State.setObuf_draws (m : Memory) : (s.setObuf m).draws = s.draws := rfl
@[simp] theorem State.setObuf_waiting (m : Memory) : (s.setObuf m).waiting = s.waiting := rfl
@[simp] theorem State.setObuf_rsp (m : Memory) : (s.setObuf m).rsp = s.rsp := rfl
@[simp] theorem State.setObuf_rasterOut (m : Memory) : (s.setObuf m).rasterOut = s.rasterOut := rfl
@[simp] theorem State.setObuf_txCalls (m : Memory) : (s.setObuf m).txCalls = s.txCalls := rfl

/-! `State.configure`. -/

@[simp] theorem State.configure_configured (n v : Nat) (w : Bool) : (s.configure n v w).configured = true := rfl
@[simp] theorem State.configure_pixCount (n v : Nat) (w : Bool) : (s.configure n v w).pixCount = n := rfl
@[simp] theorem State.configure_white (n v : Nat) (w : Bool) : (s.configure n v w).white = w := rfl
@[simp] theorem State.configure_speedHz (n v : Nat) (w : Bool) : (s.configure n v w).speedHz = v := rfl
@[simp] theorem State.configure_obuf (n v : Nat) (w : Bool) : (s.configure n v w).obuf = freshBuffer s.draws (3 * channels w * n) := rfl
@[simp] theorem State.configure_faulted (n v : Nat) (w : Bool) : (s.configure n v w).faulted = s.faulted := rfl
@[simp] theorem State.configure_refused (n v : Nat) (w : Bool) : (s.configure n v w).refused = s.refused := rfl
@[simp] theorem State.configure_txArgument (n v : Nat) (w : Bool) : (s.configure n v w).txArgument = s.txArgument := rfl
@[simp] theorem State.configure_pending (n v : Nat) (w : Bool) : (s.configure n v w).pending = s.pending := rfl
@[simp] theorem State.configure_txScript (n v : Nat) (w : Bool) : (s.configure n v w).txScript = s.txScript := rfl
@[simp] theorem State.configure_draws (n v : Nat) (w : Bool) : (s.configure n v w).draws = s.draws + 1 := rfl
@[simp] theorem State.configure_waiting (n v : Nat) (w : Bool) : (s.configure n v w).waiting = s.waiting := rfl
@[simp] theorem State.configure_rsp (n v : Nat) (w : Bool) : (s.configure n v w).rsp = s.rsp := rfl
@[simp] theorem State.configure_rasterOut (n v : Nat) (w : Bool) : (s.configure n v w).rasterOut = s.rasterOut := rfl
@[simp] theorem State.configure_txCalls (n v : Nat) (w : Bool) : (s.configure n v w).txCalls = s.txCalls := rfl

/-! `State.accept`. -/

@[simp] theorem State.accept_configured (rest : List Command) : (s.accept rest).configured = s.configured := rfl
@[simp] theorem State.accept_pixCount (rest : List Command) : (s.accept rest).pixCount = s.pixCount := rfl
@[simp] theorem State.accept_white (rest : List Command) : (s.accept rest).white = s.white := rfl
@[simp] theorem State.accept_speedHz (rest : List Command) : (s.accept rest).speedHz = s.speedHz := rfl
@[simp] theorem State.accept_obuf (rest : List Command) : (s.accept rest).obuf = s.obuf := rfl
@[simp] theorem State.accept_faulted (rest : List Command) : (s.accept rest).faulted = s.faulted := rfl
@[simp] theorem State.accept_refused (rest : List Command) : (s.accept rest).refused = s.refused := rfl
@[simp] theorem State.accept_txArgument (rest : List Command) : (s.accept rest).txArgument = s.txArgument := rfl
@[simp] theorem State.accept_pending (rest : List Command) : (s.accept rest).pending = rest := rfl
@[simp] theorem State.accept_txScript (rest : List Command) : (s.accept rest).txScript = s.txScript := rfl
@[simp] theorem State.accept_draws (rest : List Command) : (s.accept rest).draws = s.draws := rfl
@[simp] theorem State.accept_waiting (rest : List Command) : (s.accept rest).waiting = s.waiting := rfl
@[simp] theorem State.accept_rsp (rest : List Command) : (s.accept rest).rsp = s.rsp := rfl
@[simp] theorem State.accept_rasterOut (rest : List Command) : (s.accept rest).rasterOut = s.rasterOut := rfl
@[simp] theorem State.accept_txCalls (rest : List Command) : (s.accept rest).txCalls = s.txCalls := rfl

/-! `State.issueFirst`. -/

@[simp] theorem State.issueFirst_configured (c : Command) : (s.issueFirst c).configured = s.configured := rfl
@[simp] theorem State.issueFirst_pixCount (c : Command) : (s.issueFirst c).pixCount = s.pixCount := rfl
@[simp] theorem State.issueFirst_white (c : Command) : (s.issueFirst c).white = s.white := rfl
@[simp] theorem State.issueFirst_speedHz (c : Command) : (s.issueFirst c).speedHz = s.speedHz := rfl
@[simp] theorem State.issueFirst_obuf (c : Command) : (s.issueFirst c).obuf = s.obuf := rfl
@[simp] theorem State.issueFirst_faulted (c : Command) : (s.issueFirst c).faulted = none := rfl
@[simp] theorem State.issueFirst_refused (c : Command) : (s.issueFirst c).refused = none := rfl
@[simp] theorem State.issueFirst_txArgument (c : Command) : (s.issueFirst c).txArgument = s.txArgument := rfl
@[simp] theorem State.issueFirst_pending (c : Command) : (s.issueFirst c).pending = c :: s.pending := rfl
@[simp] theorem State.issueFirst_txScript (c : Command) : (s.issueFirst c).txScript = s.txScript := rfl
@[simp] theorem State.issueFirst_draws (c : Command) : (s.issueFirst c).draws = s.draws := rfl
@[simp] theorem State.issueFirst_waiting (c : Command) : (s.issueFirst c).waiting = false := rfl
@[simp] theorem State.issueFirst_rsp (c : Command) : (s.issueFirst c).rsp = s.rsp := rfl
@[simp] theorem State.issueFirst_rasterOut (c : Command) : (s.issueFirst c).rasterOut = s.rasterOut := rfl
@[simp] theorem State.issueFirst_txCalls (c : Command) : (s.issueFirst c).txCalls = s.txCalls := rfl

/-! `State.consumeReply`: it touches `txScript` and `draws` only. -/

@[simp] theorem State.consumeReply_configured : s.consumeReply.configured = s.configured := by
  unfold State.consumeReply; split <;> rfl
@[simp] theorem State.consumeReply_pixCount : s.consumeReply.pixCount = s.pixCount := by
  unfold State.consumeReply; split <;> rfl
@[simp] theorem State.consumeReply_white : s.consumeReply.white = s.white := by
  unfold State.consumeReply; split <;> rfl
@[simp] theorem State.consumeReply_speedHz : s.consumeReply.speedHz = s.speedHz := by
  unfold State.consumeReply; split <;> rfl
@[simp] theorem State.consumeReply_obuf : s.consumeReply.obuf = s.obuf := by
  unfold State.consumeReply; split <;> rfl
@[simp] theorem State.consumeReply_faulted : s.consumeReply.faulted = s.faulted := by
  unfold State.consumeReply; split <;> rfl
@[simp] theorem State.consumeReply_refused : s.consumeReply.refused = s.refused := by
  unfold State.consumeReply; split <;> rfl
@[simp] theorem State.consumeReply_txArgument : s.consumeReply.txArgument = s.txArgument := by
  unfold State.consumeReply; split <;> rfl
@[simp] theorem State.consumeReply_pending : s.consumeReply.pending = s.pending := by
  unfold State.consumeReply; split <;> rfl
@[simp] theorem State.consumeReply_txScript : s.consumeReply.txScript = s.txScript.tail := by
  rcases h : s.txScript with _ | ⟨r, rs⟩ <;> simp [State.consumeReply, h]
@[simp] theorem State.consumeReply_draws :
    s.consumeReply.draws = if s.txScript = [] then s.draws + 1 else s.draws := by
  rcases h : s.txScript with _ | ⟨r, rs⟩ <;> simp [State.consumeReply, h]
@[simp] theorem State.consumeReply_waiting : s.consumeReply.waiting = s.waiting := by
  unfold State.consumeReply; split <;> rfl
@[simp] theorem State.consumeReply_rsp : s.consumeReply.rsp = s.rsp := by
  unfold State.consumeReply; split <;> rfl
@[simp] theorem State.consumeReply_rasterOut : s.consumeReply.rasterOut = s.rasterOut := by
  unfold State.consumeReply; split <;> rfl
@[simp] theorem State.consumeReply_txCalls : s.consumeReply.txCalls = s.txCalls := by
  unfold State.consumeReply; split <;> rfl

/-! The derived views, which read `white`, `pixCount`, `speedHz` and `txArgument` only. -/

@[simp] theorem State.answer_cpp (r : Response) : (s.answer r).cpp = s.cpp := rfl
@[simp] theorem State.answer_frameLen (r : Response) : (s.answer r).frameLen = s.frameLen := rfl
@[simp] theorem State.answer_bitPeriod (r : Response) : (s.answer r).bitPeriod = s.bitPeriod := rfl
@[simp] theorem State.answer_txPresent (r : Response) : (s.answer r).txPresent = s.txPresent := rfl
@[simp] theorem State.await_cpp : s.await.cpp = s.cpp := rfl
@[simp] theorem State.await_frameLen : s.await.frameLen = s.frameLen := rfl
@[simp] theorem State.await_bitPeriod : s.await.bitPeriod = s.bitPeriod := rfl
@[simp] theorem State.await_txPresent : s.await.txPresent = s.txPresent := rfl
@[simp] theorem State.recordCall_cpp (c : TxCall) : (s.recordCall c).cpp = s.cpp := rfl
@[simp] theorem State.recordCall_frameLen (c : TxCall) : (s.recordCall c).frameLen = s.frameLen := rfl
@[simp] theorem State.recordCall_bitPeriod (c : TxCall) : (s.recordCall c).bitPeriod = s.bitPeriod := rfl
@[simp] theorem State.recordCall_txPresent (c : TxCall) : (s.recordCall c).txPresent = s.txPresent := rfl
@[simp] theorem State.leaveRasterOut_cpp (m : Memory) : (s.leaveRasterOut m).cpp = s.cpp := rfl
@[simp] theorem State.leaveRasterOut_frameLen (m : Memory) : (s.leaveRasterOut m).frameLen = s.frameLen := rfl
@[simp] theorem State.leaveRasterOut_bitPeriod (m : Memory) : (s.leaveRasterOut m).bitPeriod = s.bitPeriod := rfl
@[simp] theorem State.leaveRasterOut_txPresent (m : Memory) : (s.leaveRasterOut m).txPresent = s.txPresent := rfl
@[simp] theorem State.setObuf_cpp (m : Memory) : (s.setObuf m).cpp = s.cpp := rfl
@[simp] theorem State.setObuf_frameLen (m : Memory) : (s.setObuf m).frameLen = s.frameLen := rfl
@[simp] theorem State.setObuf_bitPeriod (m : Memory) : (s.setObuf m).bitPeriod = s.bitPeriod := rfl
@[simp] theorem State.setObuf_txPresent (m : Memory) : (s.setObuf m).txPresent = s.txPresent := rfl
@[simp] theorem State.configure_cpp (n v : Nat) (w : Bool) : (s.configure n v w).cpp = channels w := rfl
@[simp] theorem State.configure_frameLen (n v : Nat) (w : Bool) :
    (s.configure n v w).frameLen = channels w * n := rfl
@[simp] theorem State.configure_bitPeriod (n v : Nat) (w : Bool) :
    (s.configure n v w).bitPeriod = 1 / (v : Rat) := rfl
@[simp] theorem State.configure_txPresent (n v : Nat) (w : Bool) : (s.configure n v w).txPresent = s.txPresent := rfl
@[simp] theorem State.accept_cpp (rest : List Command) : (s.accept rest).cpp = s.cpp := rfl
@[simp] theorem State.accept_frameLen (rest : List Command) : (s.accept rest).frameLen = s.frameLen := rfl
@[simp] theorem State.accept_bitPeriod (rest : List Command) : (s.accept rest).bitPeriod = s.bitPeriod := rfl
@[simp] theorem State.accept_txPresent (rest : List Command) : (s.accept rest).txPresent = s.txPresent := rfl
@[simp] theorem State.issueFirst_cpp (c : Command) : (s.issueFirst c).cpp = s.cpp := rfl
@[simp] theorem State.issueFirst_frameLen (c : Command) : (s.issueFirst c).frameLen = s.frameLen := rfl
@[simp] theorem State.issueFirst_bitPeriod (c : Command) : (s.issueFirst c).bitPeriod = s.bitPeriod := rfl
@[simp] theorem State.issueFirst_txPresent (c : Command) : (s.issueFirst c).txPresent = s.txPresent := rfl
@[simp] theorem State.consumeReply_cpp : s.consumeReply.cpp = s.cpp := by
  simp [State.cpp]
@[simp] theorem State.consumeReply_frameLen : s.consumeReply.frameLen = s.frameLen := by
  simp [State.frameLen, State.cpp]
@[simp] theorem State.consumeReply_bitPeriod : s.consumeReply.bitPeriod = s.bitPeriod := by
  simp [State.bitPeriod]
@[simp] theorem State.consumeReply_txPresent : s.consumeReply.txPresent = s.txPresent := by
  simp [State.txPresent]

/-! The next answer of TX, which depends on `txScript` and `draws` only. -/

@[simp] theorem State.answer_txReply (r : Response) : (s.answer r).txReply = s.txReply := rfl
@[simp] theorem State.recordCall_txReply (c : TxCall) : (s.recordCall c).txReply = s.txReply := rfl
@[simp] theorem State.setObuf_txReply (m : Memory) : (s.setObuf m).txReply = s.txReply := rfl
@[simp] theorem State.accept_txReply (rest : List Command) : (s.accept rest).txReply = s.txReply := rfl

/-- A scripted answer is the script's first. -/
theorem State.txReply_of_script (r : TxReply) (rs : List TxReply) (h : s.txScript = r :: rs) : s.txReply = r := by
  simp [State.txReply, h]

/-- A channel count is 3 or 4 (42_device_handle.md R152). -/
theorem channels_good (w : Bool) : goodChannelCount (channels w) := by cases w <;> simp [channels, goodChannelCount]

theorem State.cpp_good : goodChannelCount s.cpp := channels_good s.white

theorem State.cpp_pos : 0 < s.cpp := by rcases s.cpp_good with h | h <;> omega

/-- The mode of a state without marks. -/
theorem State.marked_none (hf : s.faulted = none) (hr : s.refused = none) : s.marked = none := by
  simp [State.marked, hf, hr]

end Sys2Proof.Machine
end

