-- ==== Sys2Proof/Laws/Exec.lean ====
section
/-! SUPPORT. What a command can do, said once: the next states `exec` answers are the effects listed in `Effect`, and a
step that answers a next state waits or has the effect of the command it accepted. -/

namespace Sys2Proof.Machine

section
variable (s : State)

/-! `State.handOver`. -/

@[simp] theorem State.handOver_configured : s.handOver.configured = s.configured := by simp [State.handOver]
@[simp] theorem State.handOver_pixCount : s.handOver.pixCount = s.pixCount := by simp [State.handOver]
@[simp] theorem State.handOver_white : s.handOver.white = s.white := by simp [State.handOver]
@[simp] theorem State.handOver_speedHz : s.handOver.speedHz = s.speedHz := by simp [State.handOver]
@[simp] theorem State.handOver_obuf : s.handOver.obuf = s.obuf := by simp [State.handOver]
@[simp] theorem State.handOver_faulted : s.handOver.faulted = s.faulted := by simp [State.handOver]
@[simp] theorem State.handOver_refused : s.handOver.refused = s.refused := by simp [State.handOver]
@[simp] theorem State.handOver_txPresent : s.handOver.txPresent = s.txPresent := by simp [State.handOver]
@[simp] theorem State.handOver_txArgument : s.handOver.txArgument = s.txArgument := by simp [State.handOver]
@[simp] theorem State.handOver_waiting : s.handOver.waiting = s.waiting := by simp [State.handOver]
@[simp] theorem State.handOver_pending : s.handOver.pending = s.pending := by simp [State.handOver]
@[simp] theorem State.handOver_rsp : s.handOver.rsp = s.rsp := by simp [State.handOver]
@[simp] theorem State.handOver_rasterOut : s.handOver.rasterOut = s.rasterOut := by simp [State.handOver]
@[simp] theorem State.handOver_txScript : s.handOver.txScript = s.txScript.tail := by simp [State.handOver]
@[simp] theorem State.handOver_draws : s.handOver.draws = if s.txScript = [] then s.draws + 1 else s.draws := by simp [State.handOver]
@[simp] theorem State.handOver_txCalls : s.handOver.txCalls = s.txCalls ++ [s.txCall] := by simp [State.handOver]
@[simp] theorem State.handOver_cpp : s.handOver.cpp = s.cpp := by simp [State.handOver]
@[simp] theorem State.handOver_frameLen : s.handOver.frameLen = s.frameLen := by simp [State.handOver]
@[simp] theorem State.handOver_bitPeriod : s.handOver.bitPeriod = s.bitPeriod := by simp [State.handOver]

end

/-- The ways a command ends in a next state (60_exceptions.md R196), with the conditions of each (R199). -/
inductive Effect : Instr → State → State → Prop where
  | enc (b : Byte) (s : State) : Effect (.enc b) s (s.answer (.okPattern (enc b)))
  | raster {cpp : Nat} {inBuf outBuf : List Byte} {s : State} (good : goodChannelCount cpp)
      (inLength : goodInLength cpp inBuf.length) (outLength : goodOutLength inBuf.length outBuf.length) :
      Effect (.raster cpp inBuf outBuf .independent) s
        ((s.leaveRasterOut (Memory.ofBytes (frameBytes cpp inBuf))).answer .ok)
  | configError {n : Nat} {w : Bool} {s : State} (fresh : s.configured = false) :
      Effect (.config n 0 w) s (s.answer (.error .configError))
  | config {n v : Nat} {w : Bool} {s : State} (fresh : s.configured = false) (speed : v ≠ 0) :
      Effect (.config n v w) s ((s.configure n v w).answer .ok)
  | lengthError {bs : List Byte} {s : State} (configured : s.configured = true) (bad : s.badMultiple bs.length) :
      Effect (.write bs) s (s.answer (.error .lengthError))
  | writeUnsent {bs : List Byte} {s : State} {out : Memory} (configured : s.configured = true)
      (whole : bs.length = s.frameLen) (pos : 0 < bs.length) (frame : raster s.cpp bs s.obuf = some out)
      (absent : s.txPresent = false) :
      Effect (.write bs) s ((s.setObuf out).answer (.error .notSupportedError))
  | writeSent {bs : List Byte} {s : State} {out : Memory} (configured : s.configured = true)
      (whole : bs.length = s.frameLen) (pos : 0 < bs.length) (frame : raster s.cpp bs s.obuf = some out)
      (present : s.txPresent = true) (reply : s.txReply = .ok) :
      Effect (.write bs) s ((s.setObuf out).handOver.answer (.okCount bs.length))
  | writeFailed {bs : List Byte} {s : State} {out : Memory} {e : TxErr} (configured : s.configured = true)
      (whole : bs.length = s.frameLen) (pos : 0 < bs.length) (frame : raster s.cpp bs s.obuf = some out)
      (present : s.txPresent = true) (reply : s.txReply = .err e) :
      Effect (.write bs) s ((s.setObuf out).handOver.answer (.error (.txError e)))
  | writeWaits {bs : List Byte} {s : State} {out : Memory} (configured : s.configured = true)
      (whole : bs.length = s.frameLen) (pos : 0 < bs.length) (frame : raster s.cpp bs s.obuf = some out)
      (present : s.txPresent = true) (reply : s.txReply = .silent) :
      Effect (.write bs) s (s.setObuf out).handOver.await
  | haltUnsent {s : State} (configured : s.configured = true) (absent : s.txPresent = false) :
      Effect .halt s (s.answer (.error .notSupportedError))
  | haltSent {s : State} {out : Memory} (configured : s.configured = true) (pixels : s.pixCount ≠ 0)
      (frame : raster s.cpp s.zeroFrame s.obuf = some out) (present : s.txPresent = true) (reply : s.txReply = .ok) :
      Effect .halt s ((s.setObuf out).handOver.answer .ok)
  | haltFailed {s : State} {out : Memory} {e : TxErr} (configured : s.configured = true) (pixels : s.pixCount ≠ 0)
      (frame : raster s.cpp s.zeroFrame s.obuf = some out) (present : s.txPresent = true)
      (reply : s.txReply = .err e) :
      Effect .halt s ((s.setObuf out).handOver.answer (.error (.txError e)))
  | haltWaits {s : State} {out : Memory} (configured : s.configured = true) (pixels : s.pixCount ≠ 0)
      (frame : raster s.cpp s.zeroFrame s.obuf = some out) (present : s.txPresent = true)
      (reply : s.txReply = .silent) :
      Effect .halt s (s.setObuf out).handOver.await

/-- A whole frame passes WRITE's divisibility check. -/
theorem State.not_badMultiple_of_whole {s : State} {len : Nat} (h : len = s.frameLen) : ¬ s.badMultiple len := by
  simp [State.badMultiple, h, State.frameLen]

/-- RASTER's meaning where its operands are in order. -/
theorem execRaster_next {cpp : Nat} {inBuf outBuf : List Byte} {s : State} (good : goodChannelCount cpp)
    (inLength : goodInLength cpp inBuf.length) (outLength : goodOutLength inBuf.length outBuf.length) :
    execRaster cpp inBuf outBuf .independent s =
      .next ((s.leaveRasterOut (Memory.ofBytes (frameBytes cpp inBuf))).answer .ok) := by
  rw [execRaster, if_neg (not_not.mpr good), if_neg (not_not.mpr inLength), if_neg (not_not.mpr outLength),
    if_neg (by decide), raster_eq good inLength (by rw [← outLength]; exact Memory.ofBytes_hasLength outBuf)]

/-- The handoff by TX's answer. -/
theorem transmit_ok {r : Response} {s : State} (h : s.txReply = .ok) : transmit r s = .next (s.handOver.answer r) := by
  rw [transmit, h]

theorem transmit_err {r : Response} {s : State} {e : TxErr} (h : s.txReply = .err e) :
    transmit r s = .next (s.handOver.answer (.error (.txError e))) := by
  rw [transmit, h]
  rfl

theorem transmit_silent {r : Response} {s : State} (h : s.txReply = .silent) :
    transmit r s = .next s.handOver.await := by
  rw [transmit, h]

/-- WRITE of a whole frame, up to its handoff. -/
theorem execWrite_whole {bs : List Byte} {s : State} {out : Memory} (configured : s.configured = true)
    (whole : bs.length = s.frameLen) (pos : 0 < bs.length) (frame : raster s.cpp bs s.obuf = some out) :
    execWrite bs s = if ¬ s.txPresent then raise .notSupportedError (s.setObuf out)
      else transmit (.okCount bs.length) (s.setObuf out) := by
  rw [execWrite, if_neg (by simp [configured]), if_neg (State.not_badMultiple_of_whole whole),
    if_neg (by simp only [State.notWholeFrame]; omega), frame]

/-- HALT of a frame that is not empty, up to its handoff. -/
theorem execHalt_whole {s : State} {out : Memory} (configured : s.configured = true) (pixels : s.pixCount ≠ 0)
    (present : s.txPresent = true) (frame : raster s.cpp s.zeroFrame s.obuf = some out) :
    execHalt s = transmit .ok (s.setObuf out) := by
  rw [execHalt, if_neg (by simp [configured]), if_neg (by simp [present]), if_neg pixels, frame]

/-- Every effect is reached. -/
theorem Effect.exec {i : Instr} {s t : State} (h : Effect i s t) : exec i s = .next t := by
  cases h with
  | enc => rfl
  | raster good inLength outLength => exact execRaster_next good inLength outLength
  | configError fresh => simp [Machine.exec, execConfig, fresh, raise]
  | config fresh speed => simp [Machine.exec, execConfig, fresh, speed]
  | lengthError configured bad => simp only [Machine.exec, execWrite, configured, not_true, if_false, if_pos bad, raise]
  | writeUnsent configured whole pos frame absent =>
    simp [Machine.exec, execWrite_whole configured whole pos frame, absent, raise]
  | writeSent configured whole pos frame present reply =>
    simp [Machine.exec, execWrite_whole configured whole pos frame, present, transmit_ok, reply]
  | writeFailed configured whole pos frame present reply =>
    simp [Machine.exec, execWrite_whole configured whole pos frame, present, transmit_err, reply]
  | writeWaits configured whole pos frame present reply =>
    simp [Machine.exec, execWrite_whole configured whole pos frame, present, transmit_silent, reply]
  | haltUnsent configured absent => simp [Machine.exec, execHalt, configured, absent, raise]
  | haltSent configured pixels frame present reply =>
    simp [Machine.exec, execHalt_whole configured pixels present frame, transmit_ok, reply]
  | haltFailed configured pixels frame present reply =>
    simp [Machine.exec, execHalt_whole configured pixels present frame, transmit_err, reply]
  | haltWaits configured pixels frame present reply =>
    simp [Machine.exec, execHalt_whole configured pixels present frame, transmit_silent, reply]

/-- The inversion of the handoff. -/
theorem transmit_next {r : Response} {s t : State} (h : transmit r s = .next t) :
    (s.txReply = .ok ∧ t = s.handOver.answer r) ∨
    (∃ e, s.txReply = .err e ∧ t = s.handOver.answer (.error (.txError e))) ∨
    (s.txReply = .silent ∧ t = s.handOver.await) := by
  rcases hr : s.txReply with _ | e | _
  · rw [transmit_ok hr] at h; cases h; exact .inl ⟨rfl, rfl⟩
  · rw [transmit_err hr] at h; cases h; exact .inr (.inl ⟨e, rfl, rfl⟩)
  · rw [transmit_silent hr] at h; cases h; exact .inr (.inr ⟨rfl, rfl⟩)

/-- Every next state `exec` answers is one of the effects. -/
theorem exec_effect {i : Instr} {s t : State} (h : exec i s = .next t) : Effect i s t := by
  cases i with
  | enc b => cases h; exact .enc b s
  | raster cpp inBuf outBuf placement =>
    by_cases hg : goodChannelCount cpp
    · by_cases hi : goodInLength cpp inBuf.length
      · by_cases ho : goodOutLength inBuf.length outBuf.length
        · cases placement with
          | independent =>
            rw [exec, execRaster_next hg hi ho] at h
            cases h
            exact .raster hg hi ho
          | overlapping => simp [exec, execRaster, hg, hi, ho] at h
        · simp [exec, execRaster, hg, hi, ho] at h
      · simp [exec, execRaster, hg, hi] at h
    · simp [exec, execRaster, hg] at h
  | config n v w =>
    simp only [exec, execConfig] at h
    split at h
    · cases h
    · next hc =>
      rw [Bool.not_eq_true] at hc
      split at h
      · next hv => subst hv; cases h; exact .configError hc
      · next hv => cases h; exact .config hc hv
  | write bs =>
    simp only [exec, execWrite] at h
    split at h
    · cases h
    · next hc =>
      rw [not_not] at hc
      split at h
      · next hb => cases h; exact .lengthError hc hb
      · split at h
        · cases h
        · next hw =>
          have whole : bs.length = s.frameLen := by simp only [State.notWholeFrame] at hw; omega
          have pos : 0 < bs.length := by simp only [State.notWholeFrame] at hw; omega
          split at h
          · cases h
          · next out frame =>
            split at h
            · next hp => cases h; exact .writeUnsent hc whole pos frame (by simpa using hp)
            · next hp =>
              rw [not_not] at hp
              rcases transmit_next h with ⟨hr, rfl⟩ | ⟨e, hr, rfl⟩ | ⟨hr, rfl⟩
              · exact .writeSent hc whole pos frame hp hr
              · exact .writeFailed hc whole pos frame hp hr
              · exact .writeWaits hc whole pos frame hp hr
  | halt =>
    simp only [exec, execHalt] at h
    split at h
    · cases h
    · next hc =>
      rw [not_not] at hc
      split at h
      · next hp => cases h; exact .haltUnsent hc (by simpa using hp)
      · next hp =>
        rw [not_not] at hp
        split at h
        · cases h
        · next hn =>
          split at h
          · cases h
          · next out frame =>
            rcases transmit_next h with ⟨hr, rfl⟩ | ⟨e, hr, rfl⟩ | ⟨hr, rfl⟩
            · exact .haltSent hc hn frame hp hr
            · exact .haltFailed hc hn frame hp hr
            · exact .haltWaits hc hn frame hp hr

/-- `exec` answers a next state exactly when the command has that effect. -/
theorem exec_next_iff {i : Instr} {s t : State} : exec i s = .next t ↔ Effect i s t :=
  ⟨exec_effect, Effect.exec⟩

/-! A step. -/

/-- A state that carries no mark, does not wait for TX and has a command pending runs it. -/
theorem step_of_pending {s : State} {c : Command} {rest : List Command} (hm : s.marked = none)
    (hw : s.waiting = false) (hp : s.pending = c :: rest) : step s = runCommand c (s.accept rest) := by
  simp [step, hm, hw, hp]

/-- A state that waits for TX goes on waiting. -/
theorem step_of_waiting {s : State} (hm : s.marked = none) (hw : s.waiting = true) : step s = .next s := by
  simp [step, hm, hw]

/-- A step that answers a next state either waited, for TX or for HOST, or ran a decoded command. -/
theorem step_next {s t : State} (h : step s = .next t) :
    s.marked = none ∧ (((s.waiting = true ∨ s.pending = []) ∧ t = s) ∨
      ∃ c rest i, s.waiting = false ∧ s.pending = c :: rest ∧ decode c = .instr i ∧ Effect i (s.accept rest) t) := by
  rcases hm : s.marked with _ | r
  · refine ⟨rfl, ?_⟩
    simp only [step, hm] at h
    split at h
    · next hw => cases h; exact .inl ⟨.inl hw, rfl⟩
    · next hw =>
      split at h
      · next hp => cases h; exact .inl ⟨.inr hp, rfl⟩
      · next c rest hp =>
        simp only [runCommand] at h
        split at h
        · next i hd => exact .inr ⟨c, rest, i, by simpa using hw, hp, hd, exec_effect h⟩
        · cases h
  · simp only [step, hm] at h
    subst h
    simp only [State.marked] at hm
    split at hm <;> simp at hm

/-- A marked state stays as it is (10_state.md R34). -/
theorem advance_of_marked {s : State} (h : ¬ s.unmarked) : advance s = s := by
  rcases hf : s.faulted with _ | f
  · rcases hr : s.refused with _ | r
    · exact absurd ⟨hf, hr⟩ h
    · cases s
      simp_all [advance, step, State.marked, State.record]
  · cases s
    simp_all [advance, step, State.marked, State.record]

end Sys2Proof.Machine
end

