-- ==== Sys2Proof/Laws/PerInstr.lean ====
section
/-! SUPPORT. Statements made for every instruction: its code stands in the opcode table under its mnemonic. -/

namespace Sys2Proof.Laws.CodeInTable

/-- The command ports that encode `i` carry `i`'s code, and the one row of the table that code matches is the row of
`i`'s mnemonic. -/
def Statement (i : Instr) : Prop :=
  (encode i).op = i.code ∧
  opcodeTable.filter (fun r => i.code.toNat &&& r.mask == r.pattern) = [⟨i.mnemonic, i.code.toNat, 0x7⟩]

theorem enc (b : Byte) : Statement (.enc b) := by
  simp [Statement, encode, Instr.code, bareCommand, opcodeTable, Instr.mnemonic]

theorem raster (cpp : Nat) (inBuf outBuf : List Byte) (placement : Placement) :
    Statement (.raster cpp inBuf outBuf placement) := by
  simp [Statement, encode, Instr.code, bareCommand, opcodeTable, Instr.mnemonic]

theorem config (n v : Nat) (w : Bool) : Statement (.config n v w) := by
  simp [Statement, encode, Instr.code, bareCommand, opcodeTable, Instr.mnemonic]

theorem write (bs : List Byte) : Statement (.write bs) := by
  simp [Statement, encode, Instr.code, bareCommand, opcodeTable, Instr.mnemonic]

theorem halt : Statement .halt := by
  simp [Statement, encode, Instr.code, bareCommand, opcodeTable, Instr.mnemonic]

end Sys2Proof.Laws.CodeInTable
end

