-- ==== Sys2Proof/Tests/Slice0.lean ====
section
/-! SUPPORT. The model's own tests. Expected values are the spec's: the vectors of 95_test_vectors.md (V-..), the worked
examples of the rules, and words written out from 30_encoding.md R92. Then, for every statement with hypotheses, a
witness that meets them. -/

namespace Sys2Proof.Tests

open Sys2Proof Sys2Proof.Machine

/-! ## Small states -/

/-- A configured block; its `OBUF` holds `0xAA` bytes, so that an overwrite shows. -/
def handle (n v : Nat) (w : Bool) (present : Bool) (script : List TxReply) : State :=
  { State.reset with
    configured := true, pixCount := n, white := w, speedHz := v,
    obuf := Memory.ofBytes (List.replicate (3 * channels w * n) 0xAA#8), txArgument := some present, txScript := script }

/-- After V-C1: one RGB pixel at 800 kHz. -/
def rgb (script : List TxReply) : State := handle 1 800000 false true script

/-- After V-C2: one RGBW pixel at 400 kHz. -/
def rgbw (script : List TxReply) : State := handle 1 400000 true true script

/-- After V-C1 with no TX. -/
def rgbNoTx : State := handle 1 800000 false false []

/-- After V-C5: a frame of no pixels. -/
def noPixels (present : Bool) : State := handle 0 800000 false present []

/-- An outcome is a next state of which `p` holds. -/
def nextWith (r : Result) (p : State → Bool) : Bool :=
  match r with
  | .next t => p t
  | .fault _ => false
  | .refused _ => false

def faultIs (r : Result) (f : Fault) : Bool :=
  match r with
  | .fault g => g == f
  | .next _ => false
  | .refused _ => false

def refusedIs (r : Result) (f : Refusal) : Bool :=
  match r with
  | .refused g => g == f
  | .next _ => false
  | .fault _ => false

theorem exists_next {r : Result} {p : State → Bool} (h : nextWith r p = true) : ∃ t, r = .next t ∧ p t = true := by
  cases r with
  | next t => exact ⟨t, rfl, h⟩
  | fault _ => simp [nextWith] at h
  | refused _ => simp [nextWith] at h

theorem eq_fault {r : Result} {f : Fault} (h : faultIs r f = true) : r = .fault f := by
  cases r <;> simp_all [faultIs]

theorem eq_refused {r : Result} {f : Refusal} (h : refusedIs r f = true) : r = .refused f := by
  cases r <;> simp_all [refusedIs]

/-! ## Well-formedness -/

/-- `cpp` does not fit the 3-bit port `cmd_cpp` (92_eei_decisions.md, port table). -/
theorem test_wf_rejects_wide_cpp : (Instr.raster 8 [0#8] [0#8, 0#8, 0#8] .independent).wf = false := by decide

theorem test_wf_accepts_illegal_but_sendable_cpp : (Instr.raster 7 [] [] .independent).wf = true := by decide

/-! ## Decoding: codes written out bit by bit from 30_encoding.md R92 -/

theorem test_decode_enc : decode { bareCommand (BitVec.ofNat 3 (0*4 + 0*2 + 0)) with encIn := 0x80#8 } =
    .instr (.enc 0x80#8) := by decide

theorem test_decode_raster : decode { bareCommand (BitVec.ofNat 3 (0*4 + 0*2 + 1)) with
      cpp := 0b100#3, ibuf := [1#8, 2#8, 3#8, 4#8], outBuf := [9#8], placement := .overlapping } =
    .instr (.raster 4 [1#8, 2#8, 3#8, 4#8] [9#8] .overlapping) := by decide

/-- P1 step 1. -/
theorem test_decode_config : decode { bareCommand (BitVec.ofNat 3 (0*4 + 1*2 + 0)) with
      pixCount := 2, speedHz := 800000, white := false } = .instr (.config 2 800000 false) := by decide

/-- P1 step 2. -/
theorem test_decode_write : decode { bareCommand (BitVec.ofNat 3 (0*4 + 1*2 + 1)) with
      ibuf := [0x00#8, 0x01#8, 0x02#8, 0xFD#8, 0xFE#8, 0xFF#8] } =
    .instr (.write [0x00#8, 0x01#8, 0x02#8, 0xFD#8, 0xFE#8, 0xFF#8]) := by decide

/-- P2 step 3. -/
theorem test_decode_halt : decode (bareCommand (BitVec.ofNat 3 (1*4 + 0*2 + 0))) = .instr .halt := by decide

/-- V-X1: `OP = 101`, `110` and `111`. -/
theorem test_decode_reserved : ∀ op : Fin 8, 5 ≤ op.val →
    decode (bareCommand (BitVec.ofNat 3 op)) = .rejected .reservedCommand := by decide

theorem test_decode_table_words : (List.range 8).map (decodeTableWord 8) =
    [some (.enc 0#8), some (.raster 0 [] [] .independent), some (.config 0 0 false), some (.write []), some .halt,
      none, none, none] := by decide

/-! ## ENC -/

/-- V-E6: source bit 5, whose group straddles bytes 0 and 1. -/
theorem test_enc_straddle : nextWith (exec (.enc 0x20#8) State.reset)
    (fun t => t.rsp == some (.okPattern 0x934924#24)) = true := by decide

/-- P6 step 1, and its DEC of `9A 6D 34`. -/
theorem test_enc_mixed : nextWith (exec (.enc 0xA5#8) (rgb []))
    (fun t => t.rsp == some (.okPattern 0xD349A6#24)) = true ∧ dec 0x9A6D34#24 = 0x5A#8 := by decide

/-- The negative checks of 95_test_vectors.md, section 2.1. -/
theorem test_invalid_patterns : [0x000000#24, 0xFFFFFF#24, 0x924925#24, 0x124924#24, 0xB6DB6D#24].map validPattern =
    [false, false, false, false, false] := by decide

/-! ## RASTER -/

/-- V-R10: two RGBW pixels; the swap holds in the second one too. -/
theorem test_raster_rgbw : nextWith (exec (.raster 4 [0x00#8, 0x01#8, 0x02#8, 0x03#8, 0xFC#8, 0xFD#8, 0xFE#8, 0xFF#8]
      (List.replicate 24 0#8) .independent) State.reset)
    (fun t => t.rasterOut.bytes ==
      [0x92#8, 0x49#8, 0x26#8, 0x92#8, 0x49#8, 0x24#8, 0x92#8, 0x49#8, 0x34#8, 0x92#8, 0x49#8, 0x36#8,
       0xDB#8, 0x6D#8, 0xA6#8, 0xDB#8, 0x6D#8, 0xA4#8, 0xDB#8, 0x6D#8, 0xB4#8, 0xDB#8, 0x6D#8, 0xB6#8]) = true := by
  decide +kernel

/-- V-R15, V-R17, V-R18. -/
theorem test_raster_stops :
    faultIs (exec (.raster 3 [0#8, 1#8, 2#8] (List.replicate 10 0#8) .independent) State.reset)
      .rasterPrecondition = true ∧
    refusedIs (exec (.raster 6 [0#8, 1#8, 2#8, 3#8, 4#8, 5#8] (List.replicate 18 0#8) .independent) State.reset)
      .badChannelCount = true ∧
    refusedIs (exec (.raster 3 [0#8, 1#8, 2#8] (List.replicate 9 0#8) .overlapping) State.reset)
      .aliasedBuffers = true := by decide +kernel

/-! ## CONFIG -/

/-- V-C2. -/
theorem test_config_rgbw : nextWith (exec (.config 1 400000 true) State.reset)
    (fun t => t.configured && t.cpp == 4 && t.obuf.length == 12 && t.rsp == some .ok && t.txCalls == []) = true := by
  decide +kernel

/-- V-C4, V-C8. -/
theorem test_config_stops :
    nextWith (exec (.config 300 0 false) State.reset)
      (fun t => t == { State.reset with rsp := some (.error .configError) }) = true ∧
    refusedIs (exec (.config 2 800000 false) (rgb [])) .alreadyConfigured = true := by decide +kernel

/-! ## WRITE -/

/-- V-W4: the transmission error comes after the raster, and the call was made. -/
theorem test_write_txError : nextWith (exec (.write [0xFF#8, 0x00#8, 0x00#8]) (rgb [.err ⟨7⟩]))
    (fun t => t.rsp == some (.error (.txError ⟨7⟩)) && t.txCalls.length == 1 &&
      t.obuf.bytes == [0x92#8, 0x49#8, 0x24#8, 0xDB#8, 0x6D#8, 0xB6#8, 0x92#8, 0x49#8, 0x24#8]) = true := by
  decide +kernel

/-- V-W9, with the period `1/400000` s. -/
theorem test_write_rgbw : nextWith (exec (.write [0x12#8, 0x34#8, 0x56#8, 0x78#8]) (rgbw [.ok]))
    (fun t => t.rsp == some (.okCount 4) && t.txCalls.map TxCall.period == [mkRat 1 400000] &&
      t.obuf.bytes == [0x93#8, 0x69#8, 0xA4#8, 0x92#8, 0x69#8, 0x34#8, 0x9A#8, 0x69#8, 0xB4#8, 0x9B#8, 0x6D#8, 0x24#8]) =
    true := by decide +kernel

/-! ## HALT -/

/-- V-H1. -/
theorem test_halt_dark : nextWith (exec .halt (rgb [.ok]))
    (fun t => t.rsp == some .ok && t.txCalls.length == 1 &&
      t.obuf.bytes == [0x92#8, 0x49#8, 0x24#8, 0x92#8, 0x49#8, 0x24#8, 0x92#8, 0x49#8, 0x24#8]) = true := by
  decide +kernel

/-- V-H2, V-H4, V-H5, V-H6. -/
theorem test_halt_stops :
    nextWith (exec .halt rgbNoTx)
      (fun t => t == { rgbNoTx with rsp := some (.error .notSupportedError) }) = true ∧
    refusedIs (exec .halt State.reset) .notConfigured = true ∧
    faultIs (exec .halt (noPixels true)) .frameLengthMismatch = true ∧
    nextWith (exec .halt (noPixels false)) (fun t => t.rsp == some (.error .notSupportedError)) = true := by
  decide +kernel

/-- 43_external_interfaces.md R182: the call is made and `OBUF` holds the frame, but there is no response, and the next
command is not taken. -/
theorem test_halt_unanswered :
    nextWith (exec .halt (rgb [.silent])) (fun t => t.waiting && t.rsp == none && t.txCalls.length == 1 &&
      t.obuf.bytes == [0x92#8, 0x49#8, 0x24#8, 0x92#8, 0x49#8, 0x24#8, 0x92#8, 0x49#8, 0x24#8]) = true ∧
    nextWith (step { rgb [] with waiting := true, pending := [encode .halt] })
      (fun t => t.pending == [encode .halt]) = true := by
  decide +kernel

/-- 00_scope.md R8, 43_external_interfaces.md R181: `TX_PRESENT` is the instance's argument. -/
theorem test_tx_argument : ({ State.reset with txArgument := some false } : State).txPresent = false ∧
    ({ State.reset with txArgument := some true } : State).txPresent = true := by decide

/-! ## STREAM, steps, text -/

/-- V-S1, first 24 bits: `10010010 01001001 00100110`. -/
theorem test_stream : (stream (Memory.ofBytes [0x92#8, 0x49#8, 0x26#8])).map Bool.toNat =
    [1,0,0,1,0,0,1,0, 0,1,0,0,1,0,0,1, 0,0,1,0,0,1,1,0] := by decide

/-- A step runs the command put first, and refuses a reserved code. -/
theorem test_step : nextWith (step (State.reset.withFetchWord 8 2))
      (fun t => t.rsp == some (.error .configError) && t.pending == []) = true ∧
    refusedIs (step (State.reset.withFetchWord 8 6)) .reservedCommand = true := by decide +kernel

/-- 30_encoding.md R95, with the lines of 95_test_vectors.md. -/
theorem test_text : commandText (.config 2 800000 false) = "CONFIG 2, 800000, rgb" ∧
    commandText (.write [0x00#8, 0xFD#8]) = "WRITE 00 FD" ∧
    responseText (.okPattern 0xD24924#24) = "-> Ok(0xD24924)" ∧ responseText (.okCount 6) = "-> Ok(6)" := by
  decide +kernel

/-! ## Witnesses: concrete states and operands that meet the hypotheses of the statements -/

theorem rgb_handleOk (script : List TxReply) : (rgb script).handleOk :=
  ⟨fun h => by simp [rgb, handle] at h, fun _ => ⟨(by decide : (800000 : Nat) ≠ 0), rfl⟩⟩

theorem rgbNoTx_handleOk : rgbNoTx.handleOk :=
  ⟨fun h => by simp [rgbNoTx, handle] at h, fun _ => ⟨by decide, by decide⟩⟩

theorem noPixels_handleOk (present : Bool) : (noPixels present).handleOk :=
  ⟨fun h => by simp [noPixels, handle] at h, fun _ => ⟨(by decide : (800000 : Nat) ≠ 0), rfl⟩⟩

theorem reset_handleOk : State.reset.handleOk := ⟨fun _ => rfl, fun h => by cases h⟩

theorem witness_EncCompletesWithItsPattern :
    [7, 6, 5, 4, 3, 2, 1, 0].Perm (List.range 8) ∧ (0x80#8 : Byte) = 1#8 <<< 7 ∧ (0x01#8 : Byte) = 1#8 <<< 0 := by decide

theorem witness_EncIsInjectiveAndDecodable : enc 0x55#8 = enc 0x55#8 := rfl

/-- The last index of EncGroupsFollowSourceBits and ValidPatternsAreExactlyTheEncodings, of the bits of
PatternConstantsAndMasks, of a buffer of three bytes in StreamIsMostSignificantBitFirst, of the codes in
TableCommandsDecode, and the two layouts of ChannelPermutationIsAnInvolution. -/
theorem witness_last_indices : 7 < 8 ∧ 23 < 24 ∧ 23 < 8 * [1#8, 2#8, 3#8].length ∧
    (stream (Memory.ofBytes [1#8, 2#8, 3#8]))[23]? = some true ∧
    (enc 0x01#8).extractLsb' (21 - 3 * 7) 3 = 0b110#3 ∧ goodChannelCount 3 ∧ goodChannelCount 4 := by decide

theorem witness_EncArithmeticLaws : ∃ spread, spread =
    ((List.range 8).map fun k => if (0x80#8 : Byte).getLsbD k then 2 ^ (3 * k + 1) else 0).sum ∧
    (0x7F#8 : Byte) < 0x80#8 := ⟨_, rfl, by decide⟩

theorem witness_PatternBytesOfSourceBits : ∃ bit : Nat → Byte,
    ∀ k, bit k = if (0xA5#8 : Byte).getLsbD k then 1#8 else 0#8 := ⟨_, fun _ => rfl⟩

/-- The last triple of a buffer of six bytes; no triple starts past it. -/
theorem witness_PatternIsStoredBigEndian : ∃ m',
    Memory.storeAll (Memory.ofBytes (List.replicate 6 0#8)) (3 * 1) (bytes3 0x924926#24) = some m' := ⟨_, rfl⟩

theorem witness_WritesToBuffersStayInPlace :
    (∃ m', Memory.storeAll (Memory.ofBytes [1#8, 2#8, 3#8]) 1 [7#8, 8#8] = some m') ∧
    (Memory.ofBytes [1#8, 2#8, 3#8]).hasLength 3 = true ∧
    Memory.storeAll (Memory.ofBytes [1#8, 2#8, 3#8]) 2 [7#8, 8#8] = none := ⟨⟨_, rfl⟩, by decide, by decide⟩

/-- RASTER's preconditions, for both layouts, at the smallest frame. -/
theorem witness_raster_operands :
    goodChannelCount 3 ∧ goodChannelCount 4 ∧ goodInLength 3 [1#8, 2#8, 3#8].length ∧
    goodInLength 4 [1#8, 2#8, 3#8, 4#8].length ∧
    goodOutLength [1#8, 2#8, 3#8].length (List.replicate 9 0#8).length ∧
    goodOutLength [1#8, 2#8, 3#8, 4#8].length (List.replicate 12 0#8).length := by decide

theorem witness_RasterCompletesWithTheFrame : ∃ t,
    exec (.raster 4 [1#8, 2#8, 3#8, 4#8] (List.replicate 12 0#8) .independent) State.reset = .next t :=
  ⟨_, execRaster_next (by decide) (by decide) (by decide)⟩

/-- For WireOrderOfGroups, RasterResultIsRecoverableAndLocal and RasterWorksPixelByPixel: a buffer of the right length, and
a result. -/
theorem witness_RasterResult :
    (Memory.ofBytes (List.replicate 9 0#8)).hasLength (3 * [1#8, 2#8, 3#8].length) = true ∧
    (∃ m, raster 3 [1#8, 2#8, 3#8] (Memory.ofBytes (List.replicate 9 0#8)) = some m) ∧
    (∃ m, raster 3 ([1#8, 2#8, 3#8].set 2 9#8) (Memory.ofBytes (List.replicate 9 0#8)) = some m) ∧
    (∃ m, raster 4 [1#8, 2#8, 3#8, 4#8] (Memory.ofBytes (List.replicate 12 0#8)) = some m) ∧
    (∃ m, raster 3 ([1#8, 2#8, 3#8] ++ [1#8, 2#8, 3#8]) (Memory.ofBytes (List.replicate 18 0#8)) = some m) :=
  ⟨by decide, ⟨_, raster_eq (by decide) (by decide) (by decide)⟩, ⟨_, raster_eq (by decide) (by decide) (by decide)⟩,
    ⟨_, raster_eq (by decide) (by decide) (by decide)⟩, ⟨_, raster_eq (by decide) (by decide) (by decide)⟩⟩

theorem witness_RasterSwapsRedAndGreenInEveryPixel : ∃ t,
    exec (.raster 3 [1#8, 2#8, 3#8, 4#8, 5#8, 6#8] (List.replicate 18 0#8) .independent) State.reset = .next t ∧
    1 < [1#8, 2#8, 3#8, 4#8, 5#8, 6#8].length / 3 :=
  ⟨_, execRaster_next (by decide) (by decide) (by decide), by decide⟩

/-- Each clause at a boundary: `cpp` 2 and 5, an empty input, one byte too many, buffers of the right length. -/
theorem witness_RasterStopsOutsideItsContract :
    ((2 ≠ 3 ∧ 2 ≠ 4) ∧ (5 ≠ 3 ∧ 5 ≠ 4)) ∧ ([] : List Byte).length = 0 ∧ [1#8, 2#8, 3#8, 4#8].length % 3 ≠ 0 ∧
    (List.replicate 8 (0#8 : Byte)).length ≠ 3 * [1#8, 2#8, 3#8].length ∧
    (List.replicate 9 (0#8 : Byte)).length = 3 * [1#8, 2#8, 3#8].length := by decide

theorem witness_RasterIgnoresStateAndOldContents :
    (List.replicate 9 (0#8 : Byte)).length = (List.replicate 9 (1#8 : Byte)).length ∧ ∃ t,
    exec (.raster 3 [1#8, 2#8, 3#8] (List.replicate 9 0#8) .independent) State.reset = .next t :=
  ⟨by decide, _, execRaster_next (by decide) (by decide) (by decide)⟩

/-- An order that is not RASTER's: the pixels and channels backwards. -/
theorem witness_RasterOrderIsUnobservable :
    [(1, 2), (1, 1), (1, 0), (0, 2), (0, 1), (0, 0)].Perm
      ((List.range ([1#8, 2#8, 3#8, 4#8, 5#8, 6#8].length / 3)).flatMap fun p => (List.range 3).map fun c => (p, c)) := by
  decide

theorem witness_RasterWorkedExamples : (List.replicate 9 (0#8 : Byte)).length = 9 ∧
    (List.replicate 18 (0#8 : Byte)).length = 18 := by decide

theorem witness_EncAndRasterFrame :
    (∃ t, exec (.enc 0#8) (rgb []) = .next t) ∧
    (∃ t, exec (.raster 3 [1#8, 2#8, 3#8] (List.replicate 9 0#8) .independent) (rgb []) = .next t) ∧
    ∀ p c j, p < 1 → c < 3 → j < 3 → 9 ≠ outOffset 3 p c + j :=
  ⟨⟨_, rfl⟩, ⟨_, execRaster_next (by decide) (by decide) (by decide)⟩, fun p c j hp hc hj => by
    simp only [outOffset]; omega⟩

theorem witness_ConfigConstructsTheHandle : State.reset.configured = false ∧ (1 : Nat) ≠ 0 ∧
    (rgb []).configured = true := by decide

theorem witness_ConfigErrorRule : ∃ t, exec (.config 300 0 false) State.reset = .next t ∧
    t.rsp = some (.error .configError) := ⟨_, rfl, rfl⟩

theorem witness_LengthErrorRule : (rgb []).configured = true ∧ [1#8, 2#8].length % (rgb []).cpp ≠ 0 ∧
    ∃ t, exec (.write [1#8, 2#8]) (rgb []) = .next t ∧ t.rsp = some (.error .lengthError) :=
  ⟨rfl, by decide, _, rfl, rfl⟩

theorem witness_NotSupportedErrorRule :
    (∃ t, exec .halt rgbNoTx = .next t ∧ t.rsp = some (.error .notSupportedError)) ∧
    rgbNoTx.configured = true ∧ rgbNoTx.txPresent = false ∧
    [0xFF#8, 0#8, 0#8].length = rgbNoTx.cpp * rgbNoTx.pixCount ∧
    rgbNoTx.obuf.hasLength (3 * rgbNoTx.cpp * rgbNoTx.pixCount) = true :=
  ⟨⟨_, rfl, rfl⟩, by decide, by decide, by decide, by decide⟩

theorem witness_TxErrorRule : ∃ t, exec (.write [0xFF#8, 0#8, 0#8]) (rgb [.err ⟨7⟩]) = .next t ∧
    t.rsp = some (.error (.txError ⟨7⟩)) := by
  obtain ⟨t, h, hp⟩ := exists_next (r := exec (.write [0xFF#8, 0#8, 0#8]) (rgb [.err ⟨7⟩]))
    (p := fun t => t.rsp == some (.error (.txError ⟨7⟩))) (by decide +kernel)
  exact ⟨t, h, by simpa using hp⟩

theorem witness_HandleTestableProperties : (rgb []).configured = true ∧ [1#8].length % (rgb []).cpp ≠ 0 ∧
    State.reset.configured = false ∧ 0 < 800000 := by decide

/-- A whole RGB frame: the hypotheses of the statements about WRITE, for each answer of TX. -/
theorem witness_WriteSendsTheFrame : ∀ r : TxReply,
    (rgb [r]).configured = true ∧ [1#8, 2#8, 3#8].length = (rgb [r]).cpp * (rgb [r]).pixCount ∧
    0 < [1#8, 2#8, 3#8].length ∧ (rgb [r]).obuf.hasLength (3 * (rgb [r]).cpp * (rgb [r]).pixCount) = true ∧
    (rgb [r]).txPresent = true ∧ (rgb [r]).txReply = r :=
  fun r => ⟨rfl, rfl, by decide, rfl, rfl, rfl⟩

/-- The same for an RGBW frame. -/
theorem witness_HandoffWithoutSuccess :
    (rgbw [.silent]).configured = true ∧ [1#8, 2#8, 3#8, 4#8].length = (rgbw [.silent]).cpp * (rgbw [.silent]).pixCount ∧
    (rgbw [.silent]).obuf.hasLength (3 * (rgbw [.silent]).cpp * (rgbw [.silent]).pixCount) = true ∧
    (rgbw [.silent]).txPresent = true ∧ (rgbw [.silent]).txReply = .silent ∧ (rgbw [.err ⟨1⟩]).txReply = .err ⟨1⟩ :=
  ⟨rfl, by decide, by decide, rfl, rfl, rfl⟩

theorem witness_HaltSendsTheDarkFrame : (rgbw [.ok]).configured = true ∧ 0 < (rgbw [.ok]).pixCount ∧
    (rgbw [.ok]).obuf.hasLength (3 * (rgbw [.ok]).cpp * (rgbw [.ok]).pixCount) = true ∧
    (rgbw [.ok]).txPresent = true ∧ (rgbw [.ok]).txReply = .ok := ⟨rfl, by decide, by decide, rfl, rfl⟩

theorem witness_HaltEqualsWriteOfZeros :
    ((rgb [.ok]).configured = true ∧ (rgb [.ok]).txPresent = true ∧ 0 < (rgb [.ok]).pixCount) ∧
    (∃ t, exec .halt (rgb [.ok]) = .next t) ∧
    (∃ t, exec (.write (List.replicate ((rgb [.ok]).cpp * (rgb [.ok]).pixCount) 0#8)) (rgb [.ok]) = .next t) ∧
    (∃ t, exec .halt (rgb [.silent]) = .next t) ∧ 
    exec .halt { rgb [.ok] with obuf := [] } = .fault .frameLengthMismatch := by
  refine ⟨by decide, ?_, ?_, ?_, eq_fault (by decide +kernel)⟩
  · obtain ⟨t, h, -⟩ := exists_next (r := exec .halt (rgb [.ok])) (p := fun _ => true) (by decide +kernel)
    exact ⟨t, h⟩
  · obtain ⟨t, h, -⟩ := exists_next (r := exec (.write (List.replicate ((rgb [.ok]).cpp * (rgb [.ok]).pixCount) 0#8))
      (rgb [.ok])) (p := fun _ => true) (by decide +kernel)
    exact ⟨t, h⟩
  · obtain ⟨t, h, -⟩ := exists_next (r := exec .halt (rgb [.silent])) (p := fun _ => true) (by decide +kernel)
    exact ⟨t, h⟩

/-- A frame that TX never answers, and a state that waits. -/
theorem witness_AnUnansweredCallWaitsForEver : (rgb [.silent]).txReply = .silent ∧ (rgb [.silent]).unmarked ∧
    (rgb [.silent]).txPresent = true ∧
    (∃ t, exec (.write [1#8, 2#8, 3#8]) (rgb [.silent]) = .next t ∧ t.rsp ≠ some (.error .lengthError)) ∧
    (∃ t, exec .halt (rgb [.silent]) = .next t ∧ t.rsp ≠ some (.error .lengthError)) ∧
    (rgb []).await.unmarked ∧ (rgb []).await.waiting = true := by
  refine ⟨rfl, ⟨rfl, rfl⟩, rfl, ?_, ?_, ⟨rfl, rfl⟩, rfl⟩
  · obtain ⟨t, h, hp⟩ := exists_next (r := exec (.write [1#8, 2#8, 3#8]) (rgb [.silent]))
      (p := fun t => t.rsp != some (.error .lengthError)) (by decide +kernel)
    exact ⟨t, h, by simpa using hp⟩
  · obtain ⟨t, h, hp⟩ := exists_next (r := exec .halt (rgb [.silent]))
      (p := fun t => t.rsp != some (.error .lengthError)) (by decide +kernel)
    exact ⟨t, h, by simpa using hp⟩

/-- A WRITE that stores, one that does not, a HALT that does not, and an offset no pattern covers. -/
theorem witness_WriteAndHaltFrame :
    (rgb [.ok]).handleOk ∧ rgbNoTx.handleOk ∧
    (∃ t, exec (.write [1#8, 2#8, 3#8]) (rgb [.ok]) = .next t) ∧
    (∃ t, exec (.write [1#8]) (rgb []) = .next t ∧ t.rsp = some (.error .lengthError)) ∧
    (∃ t, exec .halt rgbNoTx = .next t) ∧
    ∀ p c j, p < 1 → c < 3 → j < 3 → 9 ≠ outOffset 3 p c + j := by
  refine ⟨rgb_handleOk _, rgbNoTx_handleOk, ?_, ⟨_, rfl, rfl⟩, ⟨_, rfl⟩, fun p c j hp hc hj => by
    simp only [outOffset]; omega⟩
  obtain ⟨t, h, -⟩ := exists_next (r := exec (.write [1#8, 2#8, 3#8]) (rgb [.ok])) (p := fun _ => true) (by decide +kernel)
  exact ⟨t, h⟩

theorem witness_WriteTwiceSendsTwice : (rgb [.ok, .ok, .silent]).txScript = .ok :: .ok :: [.silent] ∧
    (rgb [.ok, .ok, .silent]).configured = true ∧ (rgb [.ok, .ok, .silent]).txPresent = true := by decide

/-- For the statements with `handleOk` and a next state: a WRITE that calls TX. -/
theorem witness_BitPeriodIsExact : (rgb [.ok]).handleOk ∧
    ∃ t, exec (.write [1#8, 2#8, 3#8]) (rgb [.ok]) = .next t ∧ t.txCalls.length = 1 := by
  refine ⟨rgb_handleOk _, ?_⟩
  obtain ⟨t, h, hp⟩ := exists_next (r := exec (.write [1#8, 2#8, 3#8]) (rgb [.ok]))
    (p := fun t => t.txCalls.length == 1) (by decide +kernel)
  exact ⟨t, h, by simpa using hp⟩

/-- Each clause, with the lengths where they meet: 2 (LengthError), 0 and 6 (fault) on a frame of 3 bytes. -/
theorem witness_ConditionsHaveThisPriority :
    (rgb []).configured = true ∧ State.reset.configured = false ∧
    [1#8, 2#8].length % (rgb []).cpp ≠ 0 ∧ ([] : List Byte).length % (rgb []).cpp = 0 ∧
    [1#8, 2#8, 3#8, 4#8, 5#8, 6#8].length % (rgb []).cpp = 0 ∧
    [1#8, 2#8, 3#8, 4#8, 5#8, 6#8].length ≠ (rgb []).cpp * (rgb []).pixCount ∧
    rgbNoTx.txPresent = false ∧ (noPixels true).txPresent = true ∧ (noPixels true).pixCount = 0 ∧
    (noPixels true).configured = true := by decide

/-- Each fault and each refusal occurs in a state with `handleOk`. -/
theorem witness_OnlyTheListedStops :
    (exec (.write []) (rgb []) = .fault .frameLengthMismatch ∧ (rgb []).handleOk) ∧
    (exec .halt (noPixels true) = .fault .frameLengthMismatch ∧ (noPixels true).handleOk) ∧
    (exec (.raster 3 [] [] .independent) State.reset = .fault .rasterPrecondition ∧ State.reset.handleOk) ∧
    exec (.raster 5 [] [] .independent) State.reset = .refused .badChannelCount ∧
    exec (.raster 3 [1#8, 2#8, 3#8] (List.replicate 9 0#8) .overlapping) State.reset = .refused .aliasedBuffers ∧
    exec .halt State.reset = .refused .notConfigured ∧
    exec (.config 1 1 false) (rgb []) = .refused .alreadyConfigured :=
  ⟨⟨eq_fault (by decide +kernel), rgb_handleOk _⟩, ⟨eq_fault (by decide +kernel), noPixels_handleOk _⟩,
    ⟨eq_fault (by decide +kernel), reset_handleOk⟩,
    eq_refused (by decide +kernel), eq_refused (by decide +kernel), eq_refused (by decide +kernel),
    eq_refused (by decide +kernel)⟩

/-- A next state of each command: the hypothesis of ResponsesOfEachCommand, TxPresenceIsConstant, TheModeOnlyTurnsOn,
OnlyWriteAndHaltCallTx and EncodingErrorsDoNotExist. -/
theorem witness_ResponsesOfEachCommand :
    (∃ t, exec (.enc 1#8) State.reset = .next t) ∧
    (∃ t, exec (.raster 3 [1#8, 2#8, 3#8] (List.replicate 9 0#8) .independent) State.reset = .next t) ∧
    (∃ t, exec (.config 1 1 false) State.reset = .next t ∧ t.rsp = some .ok) ∧
    (∃ t, exec (.write [1#8, 2#8, 3#8]) (rgb [.ok]) = .next t) ∧ (∃ t, exec .halt (rgb [.ok]) = .next t) := by
  refine ⟨⟨_, rfl⟩, ⟨_, execRaster_next (by decide) (by decide) (by decide)⟩, ⟨_, rfl, rfl⟩, ?_, ?_⟩
  · obtain ⟨t, h, -⟩ := exists_next (r := exec (.write [1#8, 2#8, 3#8]) (rgb [.ok])) (p := fun _ => true) (by decide +kernel)
    exact ⟨t, h⟩
  · obtain ⟨t, h, -⟩ := exists_next (r := exec .halt (rgb [.ok])) (p := fun _ => true) (by decide +kernel)
    exact ⟨t, h⟩

/-- A configured state and a next state of it; and, in any state, a command that is not CONFIG. -/
theorem witness_ConfigurationIsImmutable : (rgb []).configured = true ∧ (∃ t, exec (.write [1#8]) (rgb []) = .next t) ∧
    ∀ n v w, Instr.write [1#8] ≠ .config n v w := ⟨rfl, ⟨_, rfl⟩, fun _ _ _ => by simp⟩

/-- A step of an invariant state that runs a command. -/
theorem witness_EveryStepKeepsTheInvariant : State.reset.inv ∧
    ({ State.reset with pending := [encode (.config 1 1 false)] } : State).inv ∧
    ∃ t, step { State.reset with pending := [encode (.config 1 1 false)] } = .next t ∧ t.configured = true :=
  ⟨⟨reset_handleOk, ⟨rfl, rfl⟩, (fun _ h => by cases h), fun h => by cases h⟩,
    ⟨⟨fun _ => rfl, fun h => by cases h⟩, ⟨rfl, rfl⟩, (fun _ h => by cases h), fun h => by cases h⟩, _, rfl, rfl⟩

theorem witness_RasteredFrameIsValid : (rgb [.ok]).handleOk ∧ rgbNoTx.handleOk ∧
    (∃ t, exec (.write [1#8, 2#8, 3#8]) rgbNoTx = .next t ∧ t.rsp ≠ some (.error .lengthError)) ∧
    (∃ t, exec .halt (rgb [.ok]) = .next t) ∧ (rgb [.ok]).txPresent = true := by
  refine ⟨rgb_handleOk _, rgbNoTx_handleOk, ?_, ?_, rfl⟩
  · obtain ⟨t, h, hp⟩ := exists_next (r := exec (.write [1#8, 2#8, 3#8]) rgbNoTx)
      (p := fun t => t.rsp != some (.error .lengthError)) (by decide +kernel)
    exact ⟨t, h, by simpa using hp⟩
  · obtain ⟨t, h, -⟩ := exists_next (r := exec .halt (rgb [.ok])) (p := fun _ => true) (by decide +kernel)
    exact ⟨t, h⟩

/-- A configured state that already holds a valid frame, and a step of it. -/
theorem witness_ValidFrameIsKept : ∃ s : State, s.handleOk ∧ s.configured = true ∧
    s.obuf.validFrame (s.cpp * s.pixCount) ∧ ∃ t, step s = .next t := by
  refine ⟨{ rgb [] with
    obuf := Memory.ofBytes [0x92#8, 0x49#8, 0x26#8, 0x92#8, 0x49#8, 0x24#8, 0x92#8, 0x49#8, 0x34#8],
    pending := [encode (.write [1#8])] },
    ⟨fun h => by simp [rgb, handle] at h, fun _ => ⟨(by decide : (800000 : Nat) ≠ 0), rfl⟩⟩, rfl, ?_, _, rfl⟩
  intro t ht
  have h3 : t < 3 := ht
  match t with
  | 0 => exact ⟨0x924926#24, by decide, by decide⟩
  | 1 => exact ⟨0x924924#24, by decide, by decide⟩
  | 2 => exact ⟨0x924934#24, by decide, by decide⟩

theorem witness_UnwrittenRegistersAreNeverRead : State.reset.configured = false ∧
    exec .halt State.reset = .refused .notConfigured ∧
    exec (.raster 3 [] [] .independent) State.reset = .fault .rasterPrecondition ∧
    (∃ t, exec (.config 1 1 false) State.reset = .next t ∧ t.configured = true) ∧
    (∃ t, exec (.config 1 0 false) State.reset = .next t ∧ t.configured = false) :=
  ⟨rfl, rfl, eq_fault (by decide), ⟨_, rfl, rfl⟩, ⟨_, rfl, rfl⟩⟩

theorem witness_StepRunsTheDecodedCommand : ∃ s : State, s.faulted = none ∧ s.refused = none ∧
    s.waiting = false ∧ s.pending = [encode .halt] ∧ decode (encode .halt) = .instr .halt :=
  ⟨{ State.reset with pending := [encode .halt] }, rfl, rfl, rfl, rfl, rfl⟩

theorem witness_StepWaitsAndRefusesReservedCodes : State.reset.faulted = none ∧ State.reset.refused = none ∧
    State.reset.waiting = false ∧ State.reset.pending = [] ∧ 5 ≤ (bareCommand 0b101#3).op.toNat ∧ 5 ≤ (bareCommand 0b111#3).op.toNat ∧
    decodeTableWord 8 4 = some .halt := by decide

theorem witness_MarksAreSticky :
    step { State.reset with pending := [encode .halt] } = .refused .notConfigured ∧
    step { State.reset with pending := [encode (.raster 3 [] [] .independent)] } = .fault .rasterPrecondition ∧
    ({ State.reset with faulted := some .rasterPrecondition } : State).faulted = some .rasterPrecondition ∧
    ({ State.reset with refused := some .notConfigured } : State).faulted = none :=
  ⟨rfl, eq_fault (by decide), rfl, rfl⟩

/-- The widest `cpp` the port carries. -/
theorem witness_DecodeOfEncode : (Instr.raster 7 [1#8] [2#8] .overlapping).wf = true ∧ (Instr.enc 0xFF#8).wf = true := by
  decide

theorem witness_DecodedCommandsAreWellFormed : decode { bareCommand 0b001#3 with cpp := 0b111#3 } =
    .instr (.raster 7 [] [] .independent) := by decide

end Sys2Proof.Tests
end

/-! PROOFS. The handle after CONFIG (10_state.md R25): the mode, the three configuration registers and the offsets of
`OBUF` are kept by every effect but CONFIG's, hence by every step and every run from a configured state. -/

namespace Sys2Proof.Machine

/-- `t` has the handle of `s`: the same mode, the same configuration and an `OBUF` with the same offsets. The bytes of
`OBUF` may differ. -/
structure State.SameHandle (s t : State) : Prop where
  configured : t.configured = s.configured
  pixCount : t.pixCount = s.pixCount
  white : t.white = s.white
  speedHz : t.speedHz = s.speedHz
  offsets : t.obuf.map Prod.fst = s.obuf.map Prod.fst

namespace State.SameHandle

/-! The operations that keep the handle, one rule each. -/

variable {s t u : State}

theorem refl (s : State) : s.SameHandle s := ⟨rfl, rfl, rfl, rfl, rfl⟩

theorem trans (hst : s.SameHandle t) (htu : t.SameHandle u) : s.SameHandle u where
  configured := htu.configured.trans hst.configured
  pixCount := htu.pixCount.trans hst.pixCount
  white := htu.white.trans hst.white
  speedHz := htu.speedHz.trans hst.speedHz
  offsets := htu.offsets.trans hst.offsets

theorem answer (s : State) (r : Response) : s.SameHandle (s.answer r) := ⟨rfl, rfl, rfl, rfl, rfl⟩

theorem await (s : State) : s.SameHandle s.await := ⟨rfl, rfl, rfl, rfl, rfl⟩

theorem leaveRasterOut (s : State) (m : Memory) : s.SameHandle (s.leaveRasterOut m) := ⟨rfl, rfl, rfl, rfl, rfl⟩

theorem accept (s : State) (rest : List Command) : s.SameHandle (s.accept rest) := ⟨rfl, rfl, rfl, rfl, rfl⟩

theorem handOver (s : State) : s.SameHandle s.handOver := by constructor <;> simp

/-- A rastered frame goes into the buffer in place. -/
theorem setRaster {cpp : Nat} {inBuf : List Byte} {out : Memory} (frame : raster cpp inBuf s.obuf = some out) :
    s.SameHandle (s.setObuf out) :=
  ⟨rfl, rfl, rfl, rfl, raster_offsets frame⟩

/-- Rastering a frame and handing it to TX keeps the handle. -/
theorem sendRaster {cpp : Nat} {inBuf : List Byte} {out : Memory} (frame : raster cpp inBuf s.obuf = some out) :
    s.SameHandle (s.setObuf out).handOver :=
  (setRaster frame).trans (handOver _)

/-- A mark is no part of the handle (10_state.md R34). -/
theorem record {r : Result} (next : ∀ t, r = .next t → s.SameHandle t) : s.SameHandle (s.record r) := by
  cases r with
  | next t => exact next t rfl
  | fault f => exact ⟨rfl, rfl, rfl, rfl, rfl⟩
  | refused r => exact ⟨rfl, rfl, rfl, rfl, rfl⟩

end State.SameHandle

/-- Only CONFIG of a block that is not configured yet constructs a handle; every other effect keeps the one there is. -/
theorem Effect.sameHandle {i : Instr} {s t : State} (h : Effect i s t)
    (kept : s.configured = true ∨ ∀ n v w, i ≠ .config n v w) : s.SameHandle t := by
  cases h with
  | enc | configError | lengthError | haltUnsent => exact .answer s _
  | raster => exact (State.SameHandle.leaveRasterOut s _).trans (.answer _ _)
  | config fresh speed =>
    rcases kept with configured | notConfig
    · rw [fresh] at configured; cases configured
    · exact absurd rfl (notConfig _ _ _)
  | writeUnsent _ _ _ frame => exact (State.SameHandle.setRaster frame).trans (.answer _ _)
  | writeSent _ _ _ frame | writeFailed _ _ _ frame | haltSent _ _ frame | haltFailed _ _ frame =>
    exact (State.SameHandle.sendRaster frame).trans (.answer _ _)
  | writeWaits _ _ _ frame | haltWaits _ _ frame => exact (State.SameHandle.sendRaster frame).trans (.await _)

/-- CONFIG of a configured block is refused (42_device_handle.md R151; decision D7). -/
theorem exec_config_of_configured {s : State} (configured : s.configured = true) (n v : Nat) (w : Bool) :
    exec (.config n v w) s = .refused .alreadyConfigured := by
  simp [exec, execConfig, configured]

theorem step_sameHandle {s t : State} (configured : s.configured = true) (h : step s = .next t) :
    s.SameHandle t := by
  obtain ⟨-, ⟨-, rfl⟩ | ⟨c, rest, i, -, -, -, effect⟩⟩ := step_next h
  · exact .refl t
  · exact (State.SameHandle.accept s rest).trans (effect.sameHandle (.inl configured))

theorem advance_sameHandle {s : State} (configured : s.configured = true) : s.SameHandle (advance s) :=
  .record fun _ h => step_sameHandle configured h

/-- The handle after CONFIG stays over every run. -/
theorem runFor_sameHandle {s : State} (n : Nat) (configured : s.configured = true) : s.SameHandle (runFor n s) := by
  induction n generalizing s with
  | zero => exact .refl s
  | succ n ih =>
    have once := advance_sameHandle configured
    exact once.trans (ih (once.configured.trans configured))

/-- Settles O41: every effect but CONFIG's keeps the handle, and CONFIG has no effect on a configured block; the run
follows by induction on the number of steps. -/
theorem configurationIsImmutable : Obligations.ConfigurationIsImmutable := by
  refine ⟨fun i s t h kept => ?_, fun n v w s configured => exec_config_of_configured configured n v w,
    fun n s configured => ?_⟩
  · have same := (exec_effect h).sameHandle kept
    exact ⟨same.pixCount, same.white, same.speedHz, same.offsets⟩
  · have same := runFor_sameHandle n configured
    exact ⟨same.pixCount, same.white, same.speedHz, Memory.length_congr same.offsets⟩

end Sys2Proof.Machine

/-! PROOFS. Patterns in a buffer (20_memory.md R53): the three bytes of a stored pattern, the triple they make, and the
offsets a store leaves alone. -/

namespace Sys2Proof.Machine

/-- Every stored byte reads back at its own offset. -/
theorem Memory.read_storeAll_inside {m m' : Memory} {a : Nat} {vs : List Byte}
    (h : Memory.storeAll m a vs = some m') {j : Nat} (hj : j < vs.length) :
    Memory.read m' (a + j) = some vs[j] := by
  rw [Memory.read_storeAll h, if_pos (by omega), Nat.add_sub_cancel_left, List.getElem?_eq_getElem hj]

/-- The frame of a store of several bytes. -/
theorem Memory.read_storeAll_outside {m m' : Memory} {a : Nat} {vs : List Byte}
    (h : Memory.storeAll m a vs = some m') {x : Nat} (hx : x < a ∨ a + vs.length ≤ x) :
    Memory.read m' x = Memory.read m x := by
  rw [Memory.read_storeAll h, if_neg (by omega)]

/-- A triple is its three bytes, the one at the lowest offset most significant. -/
theorem Memory.triple_of_read {m : Memory} {t : Nat} {x y z : Byte} (hx : Memory.read m (3 * t) = some x)
    (hy : Memory.read m (3 * t + 1) = some y) (hz : Memory.read m (3 * t + 2) = some z) :
    Memory.triple m t = some (x ++ y ++ z) := by
  simp [Memory.triple, Memory.readAll, hx, hy, hz]

/-- Settles O8: each byte of the pattern reads back at its own offset, the three reads make the triple, whose bytes put
together are the pattern, and the rest is the frame of the store. -/
theorem patternIsStoredBigEndian : Obligations.PatternIsStoredBigEndian := by
  intro m m' t p stored
  have high : Memory.read m' (3 * t) = some (p.extractLsb' 16 8) :=
    Memory.read_storeAll_inside stored (j := 0) (by simp [bytes3_length])
  have middle : Memory.read m' (3 * t + 1) = some (p.extractLsb' 8 8) :=
    Memory.read_storeAll_inside stored (j := 1) (by simp [bytes3_length])
  have low : Memory.read m' (3 * t + 2) = some (p.extractLsb' 0 8) :=
    Memory.read_storeAll_inside stored (j := 2) (by simp [bytes3_length])
  refine ⟨high, middle, low, ?_, fun a outside => Memory.read_storeAll_outside stored outside⟩
  rw [Memory.triple_of_read high middle low, bytes3_append]

end Sys2Proof.Machine

/-! PROOFS. The channel permutation (30_encoding.md R88): an injective map of the channel indices of a layout into
themselves. -/

namespace Sys2Proof.Machine

theorem src_injective : Function.Injective src := Function.Involutive.injective src_src

/-- In either layout the input offsets of a pixel's channels are its channel indices, each once. -/
theorem map_src_range_perm {cpp : Nat} (layout : goodChannelCount cpp) :
    ((List.range cpp).map src).Perm (List.range cpp) := by
  have distinct : ((List.range cpp).map src).Nodup := List.nodup_range.map src_injective
  have inside : (List.range cpp).map src ⊆ List.range cpp := by
    intro i hi
    obtain ⟨c, hc, rfl⟩ := List.mem_map.mp hi
    exact List.mem_range.mpr (src_lt layout (List.mem_range.mp hc))
  exact (List.subperm_of_subset distinct inside).perm_of_length_le (by simp)

/-- Settles O10: the four values are the definition's cases, `src` undoes itself, and so it permutes the channel indices
of each layout. -/
theorem channelPermutationIsAnInvolution : Obligations.ChannelPermutationIsAnInvolution :=
  ⟨rfl, rfl, rfl, rfl, src_src, fun _ layout => map_src_range_perm layout⟩

end Sys2Proof.Machine

/-! PROOFS. ENC (40_bit_encoder.md): its value in every state, its pattern group by group, the order of its loop, and the
image of the encoding. -/

namespace Sys2Proof.Machine

/-- ENC reads and writes no state: only the response changes (R110). -/
theorem exec_enc (b : Byte) (s : State) : exec (.enc b) s = .next { s with rsp := some (.okPattern (enc b)) } :=
  (Effect.enc b s).exec

/-! The bits of a pattern (R110). -/

theorem enc_getLsbD_high (b : Byte) {k : Nat} (hk : k < 8) : (enc b).getLsbD (3 * k + 2) = true := by
  rw [enc_getLsbD, decide_eq_true_iff]
  omega

theorem enc_getLsbD_source (b : Byte) {k : Nat} (hk : k < 8) : (enc b).getLsbD (3 * k + 1) = b.getLsbD k := by
  rw [← dec_getLsbD _ _ hk, dec_enc]

theorem enc_getLsbD_low (b : Byte) (k : Nat) : (enc b).getLsbD (3 * k) = false := by
  rw [enc_getLsbD, decide_eq_false_iff_not]
  omega

/-- R111: group `i` stands at bits `3k` to `3k + 2` for the source bit `k = 7 - i`. -/
theorem group_enc (b : Byte) {i : Nat} (hi : i < 8) :
    group (enc b) i = if b.getLsbD (7 - i) then Config.oneGroup else Config.zeroGroup := by
  have base : 21 - 3 * i = 3 * (7 - i) := by omega
  have source : 7 - i < 8 := by omega
  apply BitVec.eq_of_getLsbD_eq
  intro j hj
  rw [group, base, BitVec.getLsbD_extractLsb', decide_eq_true hj, Bool.true_and]
  match j with
  | 0 => rw [Nat.add_zero, enc_getLsbD_low]; cases b.getLsbD (7 - i) <;> rfl
  | 1 => rw [enc_getLsbD_source b source]; cases b.getLsbD (7 - i) <;> rfl
  | 2 => rw [enc_getLsbD_high b source]; cases b.getLsbD (7 - i) <;> rfl

/-- The skeleton has the bits `3k + 2` (30_encoding.md R84). -/
theorem skeleton_getLsbD : ∀ j, j < 24 → Config.skeleton.getLsbD j = decide (j % 3 = 2) := by decide

/-- The constant positions are all but `3k + 1` (30_encoding.md R84). -/
theorem fixedMask_getLsbD : ∀ j, j < 24 → Config.fixedMask.getLsbD j = decide (j % 3 ≠ 1) := by decide

/-- R111: the mask takes away the source bits, and what is left is the skeleton. -/
theorem enc_and_fixedMask (b : Byte) : enc b &&& Config.fixedMask = Config.skeleton := by
  apply BitVec.eq_of_getLsbD_eq
  intro j hj
  rw [BitVec.getLsbD_and, enc_getLsbD, fixedMask_getLsbD j hj, skeleton_getLsbD j hj]
  by_cases source : j % 3 = 1 <;> simp [source, hj]

/-! The loop (R110). -/

/-- Each turn of the loop only OR's a bit in, so turns change places. -/
theorem upgrade_right_comm (b : Byte) (p : Pattern) (k l : Nat) :
    upgrade b (upgrade b p k) l = upgrade b (upgrade b p l) k := by
  unfold upgrade
  split_ifs
  · rw [BitVec.or_assoc, BitVec.or_comm (1#24 <<< (3 * k + 1)), ← BitVec.or_assoc]
  all_goals rfl

/-- The order in which the source bits are taken is immaterial. -/
theorem enc_eq_foldl_of_perm (b : Byte) {order : List Nat} (perm : order.Perm (List.range 8)) :
    enc b = order.foldl (upgrade b) Config.skeleton :=
  (perm.foldl_eq' (fun k _ l _ p => upgrade_right_comm b p k l) Config.skeleton).symm

/-! Values (R110, R117). -/

theorem enc_0x00 : enc 0x00#8 = 0x924924#24 := by decide
theorem enc_0x01 : enc 0x01#8 = 0x924926#24 := by decide
theorem enc_0x80 : enc 0x80#8 = 0xD24924#24 := by decide
theorem enc_0xFF : enc 0xFF#8 = 0xDB6DB6#24 := by decide

/-- The position of a single source bit is clear in the skeleton, so the OR is a sum without a carry. -/
theorem enc_single_bit : ∀ k, k < 8 → (enc (1#8 <<< k)).toNat = 0x924924 + 2 ^ (3 * k + 1) := by decide

/-! The image (R113). -/

/-- Bit 2 of every result is set, so zero is no result. -/
theorem enc_ne_zero (b : Byte) : enc b ≠ 0#24 := by
  intro zero
  have bit : (enc b).getLsbD (3 * 0 + 2) = true := enc_getLsbD_high b (by decide)
  rw [zero] at bit
  exact absurd bit (by decide)

theorem card_image_enc : (Finset.image enc Finset.univ).card = 256 := by
  rw [Finset.card_image_of_injective Finset.univ fun _ _ => enc_injective, Finset.card_univ,
    ← FinEnum.card_eq_fintypeCard]
  exact FinEnum.card_bitVec 8

/-- Settles O1: `exec` has one equation for ENC, each bit of a pattern is one of three kinds, and the turns of the loop
commute. -/
theorem encCompletesWithItsPattern : Obligations.EncCompletesWithItsPattern := by
  intro b
  refine ⟨exec_enc b, fun k hk => ⟨enc_getLsbD_high b hk, enc_getLsbD_source b hk, enc_getLsbD_low b k⟩,
    fun _ perm => enc_eq_foldl_of_perm b perm, ?_, ?_, ?_, ?_,
    enc_getLsbD_high b (k := 7) (by decide), enc_getLsbD_low b 0⟩
  · rintro rfl; exact enc_0x00
  · rintro rfl; exact enc_0xFF
  · rintro k hk rfl; exact enc_single_bit k hk
  · rintro rfl; exact enc_0x80

/-- Settles O3: DEC undoes ENC, which gives the injectivity and with it the count; zero is no result. -/
theorem encIsInjectiveAndDecodable : Obligations.EncIsInjectiveAndDecodable :=
  ⟨fun _ _ => enc_injective, fun b _ hk => (enc_getLsbD_source b hk).symm, dec_enc, ⟨0#24, enc_ne_zero⟩,
    card_image_enc⟩

/-- Settles O2: group by group, with the source bits masked off, and at source bit 0, which stands in the last group. -/
theorem encGroupsFollowSourceBits : Obligations.EncGroupsFollowSourceBits := by
  refine ⟨fun b _ hi => group_enc b hi, fun b => ⟨enc_and_fixedMask b, validPattern_enc b⟩, enc_0x01, ?_⟩
  rw [enc_0x01]
  decide

/-- Settles O6: ENC answers the pattern of its operand in every state. -/
theorem encWorkedValues : Obligations.EncWorkedValues := by
  intro s
  rw [exec_enc, exec_enc, exec_enc, exec_enc, enc_0x00, enc_0x80, enc_0xFF, enc_0x01]
  exact ⟨rfl, rfl, rfl, rfl⟩

end Sys2Proof.Machine

/-! PROOFS. RASTER (41_frame_rasterizer.md): what it answers on operands that meet its contract, the triple of each output
channel in the frame it leaves, and the document's worked examples. -/

namespace Sys2Proof.Machine

/-- RASTER within its contract (R130): only its buffer and the response change. -/
theorem exec_raster {cpp : Nat} {inBuf outBuf : List Byte} (good : goodChannelCount cpp)
    (inLength : goodInLength cpp inBuf.length) (outLength : goodOutLength inBuf.length outBuf.length) (s : State) :
    exec (.raster cpp inBuf outBuf .independent) s =
      .next { s with rsp := some .ok, rasterOut := Memory.ofBytes (frameBytes cpp inBuf) } :=
  (Effect.raster good inLength outLength).exec

/-- The inversion of RASTER: it answers a next state only within its contract, and leaves the frame. -/
theorem exec_raster_next {cpp : Nat} {inBuf outBuf : List Byte} {placement : Placement} {s t : State}
    (h : exec (.raster cpp inBuf outBuf placement) s = .next t) :
    goodChannelCount cpp ∧ goodInLength cpp inBuf.length ∧ t.rasterOut = Memory.ofBytes (frameBytes cpp inBuf) := by
  cases exec_effect h with
  | raster good inLength _ => exact ⟨good, inLength, rfl⟩

/-! The triples of a frame (R132). -/

/-- A read of several bytes, byte by byte. -/
theorem Memory.readAll_of_read {m : Memory} {a : Nat} {vs : List Byte}
    (h : ∀ j, j < vs.length → Memory.read m (a + j) = vs[j]?) : Memory.readAll m a vs.length = some vs := by
  induction vs generalizing a with
  | nil => rfl
  | cons v vs ih =>
    have first : Memory.read m a = some v := h 0 (by simp)
    have rest : Memory.readAll m (a + 1) vs.length = some vs := ih fun j hj => by
      rw [Nat.add_assoc, Nat.add_comm 1 j]
      exact h (j + 1) (by simpa using hj)
    simp [Memory.readAll, first, rest]

/-- In the frame of `inBuf` the triple of output channel `c` of pixel `p` is the pattern of the channel's source byte. -/
theorem readAll_frame {cpp p c : Nat} {inBuf : List Byte} (good : goodChannelCount cpp)
    (whole : inBuf.length % cpp = 0) (hp : p < inBuf.length / cpp) (hc : c < cpp) :
    ∃ b, inBuf[cpp * p + src c]? = some b ∧
      Memory.readAll (Memory.ofBytes (frameBytes cpp inBuf)) (3 * cpp * p + 3 * c) 3 = some (bytes3 (enc b)) := by
  have source : cpp * p + src c < inBuf.length := inOffset_lt good whole hp hc
  have offset : 3 * cpp * p + 3 * c = outOffset cpp p c := by rw [outOffset, Nat.mul_add, Nat.mul_assoc]
  refine ⟨_, List.getElem?_eq_getElem source, ?_⟩
  rw [offset, ← bytes3_length (enc inBuf[cpp * p + src c])]
  refine Memory.readAll_of_read fun j hj => ?_
  rw [Memory.read_ofBytes, frameBytes, List.getElem?_map, List.getElem?_range (outOffset_lt whole hp hc hj),
    Option.map_some, frameByte_outOffset inBuf hc hj, inOffset, List.getD_eq_getElem _ _ source,
    List.getD_eq_getElem _ _ hj, List.getElem?_eq_getElem hj]

/-- Settles O15: RASTER leaves the frame, and the output channels 0 to 3 of a pixel have the sources 1, 0, 2 and 3. -/
theorem rasterSwapsRedAndGreenInEveryPixel : Obligations.RasterSwapsRedAndGreenInEveryPixel := by
  intro cpp inBuf outBuf s t answered p hp
  obtain ⟨good, ⟨_, whole⟩, frame⟩ := exec_raster_next answered
  rw [frame]
  have three : 3 ≤ cpp := by omega
  exact ⟨readAll_frame (c := 0) good whole hp (by omega), readAll_frame (c := 1) good whole hp (by omega),
    readAll_frame (c := 2) good whole hp (by omega),
    fun white => readAll_frame (c := 3) good whole hp (by omega)⟩

/-! The document's frames (R141). -/

theorem frameBytes_00_01_02 : frameBytes 3 [0#8, 1#8, 2#8] =
    [0x92#8, 0x49#8, 0x26#8, 0x92#8, 0x49#8, 0x24#8, 0x92#8, 0x49#8, 0x34#8] := by decide

theorem frameBytes_FD_FE_FF : frameBytes 3 [0xFD#8, 0xFE#8, 0xFF#8] =
    [0xDB#8, 0x6D#8, 0xB4#8, 0xDB#8, 0x6D#8, 0xA6#8, 0xDB#8, 0x6D#8, 0xB6#8] := by decide

theorem frameBytes_two_pixels : frameBytes 3 [0#8, 1#8, 2#8, 0xFD#8, 0xFE#8, 0xFF#8] =
    [0x92#8, 0x49#8, 0x26#8, 0x92#8, 0x49#8, 0x24#8, 0x92#8, 0x49#8, 0x34#8,
     0xDB#8, 0x6D#8, 0xB4#8, 0xDB#8, 0x6D#8, 0xA6#8, 0xDB#8, 0x6D#8, 0xB6#8] := by decide

/-- Settles O21: each example meets RASTER's contract, so RASTER leaves its frame, whose bytes are the document's. -/
theorem rasterWorkedExamples : Obligations.RasterWorkedExamples := by
  intro s o₉ o₁₈ nine eighteen
  rw [exec_raster (by decide) (by decide) nine, exec_raster (by decide) (by decide) nine,
    exec_raster (by decide) (by decide) eighteen, frameBytes_00_01_02, frameBytes_FD_FE_FF, frameBytes_two_pixels]
  exact ⟨rfl, rfl, rfl⟩

end Sys2Proof.Machine

/-! PROOFS. The Device Handle (42_device_handle.md): the one transition of the mode, and the answers CONFIG and WRITE give
to operands they reject. -/

namespace Sys2Proof.Machine

/-- The only command that can change the mode is a CONFIG that succeeds, and it sets it (R150). -/
theorem Effect.configured_eq_or_config {i : Instr} {s t : State} (h : Effect i s t) :
    t.configured = s.configured ∨
    (s.configured = false ∧ t.configured = true ∧ t.rsp = some .ok ∧ ∃ n v w, i = .config n v w) := by
  by_cases isConfig : ∃ n v w, i = .config n v w
  · obtain ⟨n, v, w, rfl⟩ := isConfig
    cases h with
    | configError => exact .inl rfl
    | config fresh => exact .inr ⟨fresh, rfl, rfl, n, v, w, rfl⟩
  · have notConfig : ∀ n v w, i ≠ .config n v w := fun n v w isIt => isConfig ⟨n, v, w, isIt⟩
    exact .inl (h.sameHandle (.inr notConfig)).configured

/-- The inversion of a CONFIG that answers `Ok` (R151): it found no handle and constructed one. -/
theorem exec_config_ok {n v : Nat} {w : Bool} {s t : State} (h : exec (.config n v w) s = .next t)
    (ok : t.rsp = some .ok) : s.configured = false ∧ t = (s.configure n v w).answer .ok := by
  cases exec_effect h with
  | configError => simp at ok
  | config fresh => exact ⟨fresh, rfl⟩

/-- Settles O42: no effect but a successful CONFIG changes the mode, and a configured block keeps its handle, the mode with
it, over every run. -/
theorem theModeOnlyTurnsOn : Obligations.TheModeOnlyTurnsOn := by
  refine ⟨rfl, fun i s t h => (exec_effect h).configured_eq_or_config, fun n v w s t h ok => ?_,
    fun n s configured => (runFor_sameHandle n configured).configured.trans configured⟩
  obtain ⟨fresh, rfl⟩ := exec_config_ok h ok
  exact ⟨fresh, rfl⟩

/-- Settles O28: each property is one effect of WRITE or CONFIG, whose conditions are the property's own. -/
theorem handleTestableProperties : Obligations.HandleTestableProperties := by
  refine ⟨fun bs s configured bad => ?lengthError, fun n w s fresh => ?configError, fun n v w s fresh speed => ?config⟩
  case lengthError => exact ⟨_, (Effect.lengthError configured bad).exec, rfl, rfl⟩
  case configError => exact ⟨_, (Effect.configError fresh).exec, rfl⟩
  case config => exact ⟨_, (Effect.config fresh speed.ne').exec, rfl, rfl⟩

end Sys2Proof.Machine

/-! PROOFS. The errors (60_exceptions.md): the effects that raise each error, a WRITE that does not see the last response,
and the frame a WRITE leaves where TX is absent. -/

namespace Sys2Proof.Machine

/-! What raises each error (R191 to R194). -/

/-- R191: the state after a ConfigError is the one before, but for the response. -/
theorem Effect.of_configError {i : Instr} {s t : State} (h : Effect i s t)
    (raised : t.rsp = some (.error .configError)) :
    (∃ n w, i = .config n 0 w) ∧ s.configured = false ∧ t = s.answer (.error .configError) := by
  cases h with
  | @configError n w _ fresh => exact ⟨⟨n, w, rfl⟩, fresh, rfl⟩
  | _ => simp at raised

/-- R192: the state after a LengthError is the one before, but for the response. -/
theorem Effect.of_lengthError {i : Instr} {s t : State} (h : Effect i s t)
    (raised : t.rsp = some (.error .lengthError)) :
    (∃ bs, i = .write bs ∧ s.badMultiple bs.length) ∧ t = s.answer (.error .lengthError) := by
  cases h with
  | @lengthError bs _ _ bad => exact ⟨⟨bs, rfl, bad⟩, rfl⟩
  | _ => simp at raised

/-- R193: HALT finds TX absent before it stores the dark frame, WRITE after it has stored the new one. -/
theorem Effect.of_notSupportedError {i : Instr} {s t : State} (h : Effect i s t)
    (raised : t.rsp = some (.error .notSupportedError)) :
    s.txPresent = false ∧
    ((i = .halt ∧ t = s.answer (.error .notSupportedError)) ∨
      ∃ bs out, i = .write bs ∧ t = (s.setObuf out).answer (.error .notSupportedError)) := by
  cases h with
  | haltUnsent _ absent => exact ⟨absent, .inl ⟨rfl, rfl⟩⟩
  | writeUnsent _ _ _ _ absent => exact ⟨absent, .inr ⟨_, _, rfl, rfl⟩⟩
  | _ => simp at raised

/-- R194: a transmission error is TX's answer to the handoff of the frame just stored. -/
theorem Effect.of_txError {i : Instr} {s t : State} {e : TxErr} (h : Effect i s t)
    (raised : t.rsp = some (.error (.txError e))) :
    (i = .halt ∨ ∃ bs, i = .write bs) ∧ s.txReply = .err e ∧
    ∃ out, t = (s.setObuf out).handOver.answer (.error (.txError e)) := by
  cases h with
  | writeFailed _ _ _ _ _ reply =>
    cases raised
    exact ⟨.inr ⟨_, rfl⟩, reply, _, rfl⟩
  | haltFailed _ _ _ _ reply =>
    cases raised
    exact ⟨.inl rfl, reply, _, rfl⟩
  | _ => simp at raised

/-! A WRITE does not see the last response (10_state.md R32 (f)). -/

@[simp] theorem State.answer_answer (s : State) (r r' : Response) : (s.answer r).answer r' = s.answer r' := rfl

@[simp] theorem State.await_of_answer (s : State) (r : Response) : (s.answer r).await = s.await := rfl

@[simp] theorem State.setObuf_of_answer (s : State) (r : Response) (out : Memory) :
    (s.answer r).setObuf out = (s.setObuf out).answer r := rfl

@[simp] theorem State.consumeReply_of_answer (s : State) (r : Response) :
    (s.answer r).consumeReply = s.consumeReply.answer r := by
  rcases script : s.txScript with _ | ⟨_, _⟩ <;> simp [State.consumeReply, script, State.answer]

@[simp] theorem State.handOver_of_answer (s : State) (r : Response) :
    (s.answer r).handOver = s.handOver.answer r := by
  rw [State.handOver, State.consumeReply_of_answer]
  rfl

@[simp] theorem raise_of_answer (e : CmdError) (s : State) (r : Response) : raise e (s.answer r) = raise e s := rfl

@[simp] theorem transmit_of_answer (success : Response) (s : State) (r : Response) :
    transmit success (s.answer r) = transmit success s := by
  simp [transmit]

/-- No check of WRITE reads the response, and each way it ends overwrites it. -/
theorem exec_write_of_answer (bs : List Byte) (s : State) (r : Response) :
    exec (.write bs) (s.answer r) = exec (.write bs) s := by
  simp [exec, execWrite, State.badMultiple, State.notWholeFrame]

/-! The frame of a whole-frame WRITE (30_encoding.md R90). -/

/-- The bytes of a read of several, one by one. -/
theorem Memory.read_of_readAll {m : Memory} {a n : Nat} {vs : List Byte} (h : Memory.readAll m a n = some vs) {j : Nat}
    (hj : j < n) : Memory.read m (a + j) = vs[j]? := by
  induction n generalizing a j vs with
  | zero => omega
  | succ n ih =>
    simp only [Memory.readAll, Option.bind_eq_some_iff, Option.map_eq_some_iff] at h
    obtain ⟨b, first, bs, rest, rfl⟩ := h
    match j with
    | 0 => simpa using first
    | j + 1 =>
      rw [List.getElem?_cons_succ, ← ih rest (by omega : j < n), Nat.add_assoc, Nat.add_comm 1 j]

theorem channelOffset_eq_src (c : Nat) : channelOffset c = src c := by
  match c with
  | 0 => rfl
  | 1 => rfl
  | c + 2 => simp [channelOffset, src]

theorem isFrame_frameBytes {cpp : Nat} {inBuf : List Byte} (good : goodChannelCount cpp)
    (whole : inBuf.length % cpp = 0) : isFrame cpp inBuf (Memory.ofBytes (frameBytes cpp inBuf)) := by
  refine ⟨by simpa using Memory.ofBytes_hasLength (frameBytes cpp inBuf), fun p c j hp hc hj => ?_⟩
  obtain ⟨b, source, triple⟩ := readAll_frame good whole hp hc
  refine ⟨b, by rw [channelOffset_eq_src, source], ?_⟩
  rw [Nat.mul_add, ← Nat.mul_assoc]
  exact Memory.read_of_readAll triple hj

/-- A whole frame that is not empty rasters into an `OBUF` of the length the registers say. -/
theorem exists_raster_of_whole {s : State} {bs : List Byte} (whole : bs.length = s.frameLen) (pos : 0 < bs.length)
    (room : s.obuf.hasLength (3 * s.cpp * s.pixCount) = true) :
    ∃ out, raster s.cpp bs s.obuf = some out ∧ isFrame s.cpp bs out := by
  have multiple : bs.length % s.cpp = 0 := not_not.mp (State.not_badMultiple_of_whole whole)
  have fits : s.obuf.hasLength (3 * bs.length) = true := by rwa [whole, State.frameLen, ← Nat.mul_assoc]
  exact ⟨_, raster_eq s.cpp_good ⟨pos, multiple⟩ fits, isFrame_frameBytes s.cpp_good multiple⟩

/-- Settles O24: one effect raises ConfigError, and it needs nothing but the speed 0. -/
theorem configErrorRule : Obligations.ConfigErrorRule := by
  refine ⟨fun i s t h raised => ?_, fun n w s fresh => (Effect.configError fresh).exec, rfl⟩
  obtain ⟨⟨n, w, rfl⟩, fresh, rfl⟩ := (exec_effect h).of_configError raised
  exact ⟨n, w, rfl, rfl, fresh⟩

/-- Settles O25: one effect raises LengthError; it changes the response alone, which the retry does not see. -/
theorem lengthErrorRule : Obligations.LengthErrorRule := by
  refine ⟨fun i s t h raised => ?_, fun bs s configured bad => ⟨(Effect.lengthError configured bad).exec,
    fun retry => exec_write_of_answer retry s _⟩, rfl⟩
  obtain ⟨⟨bs, rfl, bad⟩, rfl⟩ := (exec_effect h).of_lengthError raised
  exact ⟨bs, rfl, bad, rfl, rfl, rfl⟩

/-- Settles O26: two effects raise NotSupportedError, neither hands a frame over, and WRITE's stores the frame. -/
theorem notSupportedErrorRule : Obligations.NotSupportedErrorRule := by
  refine ⟨fun i s t h raised => ?only, fun s configured absent => (Effect.haltUnsent configured absent).exec,
    fun bs s configured absent whole pos room => ?write, rfl⟩
  case only =>
    obtain ⟨absent, ⟨rfl, rfl⟩ | ⟨bs, out, rfl, rfl⟩⟩ := (exec_effect h).of_notSupportedError raised
    · exact ⟨.inl rfl, absent, rfl⟩
    · exact ⟨.inr ⟨bs, rfl⟩, absent, rfl⟩
  case write =>
    obtain ⟨out, frame, isIt⟩ := exists_raster_of_whole whole pos room
    exact ⟨out, isIt, (Effect.writeUnsent configured whole pos frame absent).exec⟩

/-- Settles O27: the error comes from the handoff, which records the stream of the stored frame and keeps the handle's
mode and configuration. -/
theorem txErrorRule : Obligations.TxErrorRule := by
  refine ⟨fun i s t e h raised => ?_, fun e => ⟨rfl, rfl⟩⟩
  obtain ⟨command, reply, out, rfl⟩ := (exec_effect h).of_txError raised
  exact ⟨command, reply, by simp [State.txCall, State.bitPeriod], by simp, by simp, by simp, by simp⟩

/-- Settles O39: ENC has one equation, and RASTER's only next state answers `Ok`. -/
theorem encodingErrorsDoNotExist : Obligations.EncodingErrorsDoNotExist := by
  refine ⟨fun b s => ⟨_, enc b, exec_enc b s, rfl⟩, fun cpp inBuf outBuf placement s t h e => ?_⟩
  cases exec_effect h with
  | raster => simp

end Sys2Proof.Machine

/-! PROOFS. The decoder (30_encoding.md R92, R93): what it reads from each code, that it inverts the encoder, and the
commands of the table. -/

namespace Sys2Proof.Machine

/-- The table of R92: the eight codes, and what the decoder reads from each. -/
theorem decode_cases (c : Command) :
    (c.op = 0b000#3 ∧ decode c = .instr (.enc c.encIn)) ∨
    (c.op = 0b001#3 ∧ decode c = .instr (.raster c.cpp.toNat c.ibuf c.outBuf c.placement)) ∨
    (c.op = 0b010#3 ∧ decode c = .instr (.config c.pixCount c.speedHz c.white)) ∨
    (c.op = 0b011#3 ∧ decode c = .instr (.write c.ibuf)) ∨
    (c.op = 0b100#3 ∧ decode c = .instr .halt) ∨
    ((c.op = 0b101#3 ∨ c.op = 0b110#3 ∨ c.op = 0b111#3) ∧ decode c = .rejected .reservedCommand) := by
  have codes : ∀ op : OpCode, op = 0b000#3 ∨ op = 0b001#3 ∨ op = 0b010#3 ∨ op = 0b011#3 ∨ op = 0b100#3 ∨
      op = 0b101#3 ∨ op = 0b110#3 ∨ op = 0b111#3 := by decide
  rcases codes c.op with op | op | op | op | op | op | op | op <;> simp [decode, op]

/-- An instruction is read from its own code only. -/
theorem op_of_decode {c : Command} {i : Instr} (h : decode c = .instr i) : c.op = i.code := by
  rcases decode_cases c with ⟨op, d⟩ | ⟨op, d⟩ | ⟨op, d⟩ | ⟨op, d⟩ | ⟨op, d⟩ | ⟨-, d⟩ <;> rw [d] at h <;> cases h <;>
    exact op

theorem encode_op (i : Instr) : (encode i).op = i.code := by cases i <;> rfl

/-- Decision D2: the encoder's command decodes to the instruction, if its `cpp` fits the port. -/
theorem decode_encode {i : Instr} (fits : i.wf = true) : decode (encode i) = .instr i := by
  cases i with
  | raster cpp inBuf outBuf placement =>
    have port : cpp < 8 := by simpa [Instr.wf, fitsCppPort] using fits
    simp [decode, encode, Instr.code, bareCommand, Nat.mod_eq_of_lt port]
  | _ => rfl

/-- The port `cmd_cpp` carries three bits, so what is read from it fits it. -/
theorem wf_of_decode {c : Command} {i : Instr} (h : decode c = .instr i) : i.wf = true := by
  rcases decode_cases c with ⟨-, d⟩ | ⟨-, d⟩ | ⟨-, d⟩ | ⟨-, d⟩ | ⟨-, d⟩ | ⟨-, d⟩ <;> rw [d] at h <;> cases h
  case inr.inl => exact decide_eq_true c.cpp.isLt
  all_goals rfl

/-- Settles O56: an instruction fixes the code of its commands, and under that code the decoder reads just the fields
the code names. -/
theorem decodeOfEncode : Obligations.DecodeOfEncode := by
  intro i fits
  refine ⟨decode_encode fits, fun c => ?_⟩
  rw [encode_op]
  refine ⟨fun h => ⟨op_of_decode h, ?_⟩, fun ⟨op, operands⟩ => ?_⟩
  · have op := op_of_decode h
    cases i with
    | halt => trivial
    | _ => simpa [decode, op, Instr.code] using h
  · cases i with
    | halt => simp [decode, op, Instr.code]
    | _ => simpa [decode, op, Instr.code] using operands

/-- Settles O57: what is read fits its port, so encoding inverts it, and only the codes 5 to 7 read nothing. -/
theorem decodedCommandsAreWellFormed : Obligations.DecodedCommandsAreWellFormed := by
  intro c
  refine ⟨fun i h => ⟨wf_of_decode h, (encode_op i).trans (op_of_decode h).symm, decode_encode (wf_of_decode h)⟩, ?_⟩
  rcases decode_cases c with ⟨op, d⟩ | ⟨op, d⟩ | ⟨op, d⟩ | ⟨op, d⟩ | ⟨op, d⟩ | ⟨op, d⟩
  case inr.inr.inr.inr.inr => exact iff_of_true d op
  all_goals simp [d, op]

/-- Settles O58: each command is one row of the decoder's table, and the eight codes are looked up one by one. -/
theorem tableCommandsDecode : Obligations.TableCommandsDecode :=
  ⟨rfl, rfl, rfl, rfl, rfl, rfl, by decide⟩

end Sys2Proof.Machine

/-! PROOFS. Buffers (20_memory.md): writes in place, and the bit sequence of a buffer (R54). -/

namespace Sys2Proof.Machine

/-! Writes (R50, R59; log 9). -/

/-- A buffer of `n` bytes can be read at exactly the offsets below `n`. -/
theorem Memory.exists_read_iff {m : Memory} {n : Nat} (h : m.hasLength n = true) (a : Nat) :
    (∃ b, Memory.read m a = some b) ↔ a < n := by
  have bytes : m.bytes.length = n := by simpa [Memory.bytes] using Memory.length_of_hasLength h
  rw [Memory.read_of_hasLength h, ← Option.isSome_iff_exists, isSome_getElem?, bytes]

/-- Settles O11: a store keeps the offsets, and so the canonical form; the byte at its last offset can be read only if
that offset is inside. -/
theorem writesToBuffersStayInPlace : Obligations.WritesToBuffersStayInPlace := by
  refine ⟨fun m m' a vs stored => ⟨Memory.storeAll_wf stored, Memory.storeAll_offsets stored, ?readBack,
    fun x outside => Memory.read_storeAll_outside stored outside⟩, fun m n a vs length => ⟨?inside, ?completes⟩,
    fun m n length => ⟨Memory.wf_of_hasLength length, Memory.exists_read_iff length⟩⟩
  case readBack =>
    refine Memory.readAll_of_read fun j hj => ?_
    rw [Memory.read_storeAll_inside stored hj, List.getElem?_eq_getElem hj]
  case inside =>
    rintro ⟨m', stored⟩
    rw [or_iff_not_imp_left]
    intro notEmpty
    have pos : 0 < vs.length := List.length_pos_iff.mpr notEmpty
    have length' : m'.hasLength n = true := by
      rw [Memory.hasLength_iff, Memory.storeAll_offsets stored, Memory.hasLength_iff.mp length]
    have last := (Memory.exists_read_iff length' (a + (vs.length - 1))).mp
      ⟨_, Memory.read_storeAll_inside stored (by omega)⟩
    omega
  case completes =>
    rintro (rfl | inside)
    · exact ⟨m, rfl⟩
    · exact Memory.storeAll_isSome fun x _ hx => Memory.mem_of_hasLength length (by omega)

/-! The bit sequence (R54; decision D14, log 23). -/

theorem stream_ofBytes (bs : List Byte) : stream (Memory.ofBytes bs) = bs.flatMap byteBits := by
  rw [stream, Memory.ofBytes_bytes]

theorem byteBits_length (b : Byte) : (byteBits b).length = 8 := rfl

theorem byteBits_getElem? (b : Byte) {j : Nat} (hj : j < 8) : (byteBits b)[j]? = some (b.getLsbD (7 - j)) := by
  match j with
  | 0 | 1 | 2 | 3 | 4 | 5 | 6 | 7 => rfl

theorem length_flatMap_byteBits (bs : List Byte) : (bs.flatMap byteBits).length = 8 * bs.length := by
  induction bs with
  | nil => rfl
  | cons b bs ih => rw [List.flatMap_cons, List.length_append, ih, byteBits_length, List.length_cons]; omega

theorem stream_length {m : Memory} {n : Nat} (h : m.hasLength n = true) : (stream m).length = 8 * n := by
  rw [stream, length_flatMap_byteBits, Memory.bytes, List.length_map, Memory.length_of_hasLength h]

theorem flatMap_byteBits_getElem? (bs : List Byte) (j : Nat) :
    (bs.flatMap byteBits)[j]? = (bs[j / 8]?).map fun b => b.getLsbD (7 - j % 8) := by
  induction bs generalizing j with
  | nil => simp
  | cons b bs ih =>
    rw [List.flatMap_cons]
    by_cases first : j < 8
    · rw [List.getElem?_append_left first, byteBits_getElem? b first, Nat.div_eq_of_lt first, Nat.mod_eq_of_lt first]
      rfl
    · obtain ⟨i, rfl⟩ : ∃ i, j = 8 + i := ⟨j - 8, by omega⟩
      rw [List.getElem?_append_right (Nat.le_add_right 8 i), byteBits_length, Nat.add_sub_cancel_left, ih,
        Nat.add_mod_left, Nat.add_div_left i (by decide), List.getElem?_cons_succ]

/-- The bits of one stored pattern go out from bit 23 to bit 0. -/
theorem flatMap_byteBits_bytes3 (p : Pattern) :
    (bytes3 p).flatMap byteBits = (List.range (3 * 8)).map fun j => p.getLsbD (23 - j) := by
  simp [bytes3, byteBits, List.range_succ]

/-- Settles O12: the bits of the first byte go out before the bits of the rest. -/
theorem streamIsMostSignificantBitFirst : Obligations.StreamIsMostSignificantBitFirst := by
  refine ⟨fun bs => ⟨?_, fun j _ => ?_⟩, fun p => ?_⟩
  · rw [stream_ofBytes, length_flatMap_byteBits]
  · rw [stream_ofBytes, flatMap_byteBits_getElem?]
  · rw [stream_ofBytes, flatMap_byteBits_bytes3]

end Sys2Proof.Machine

/-! PROOFS. RASTER (41_frame_rasterizer.md): its stops, the frame it leaves as buffer, as triples, pixel by pixel and as
bits on the wire, and the independence of its loop's order. -/

namespace Sys2Proof.Machine

section
variable {cpp : Nat} {inBuf outBuf : List Byte} {out m : Memory}

/-! What RASTER answers (R130, R135; log 12). -/

theorem exec_raster_badChannelCount (bad : ¬ goodChannelCount cpp) (placement : Placement) (s : State) :
    exec (.raster cpp inBuf outBuf placement) s = .refused .badChannelCount :=
  if_pos bad

theorem exec_raster_badLength (good : goodChannelCount cpp)
    (bad : ¬ (goodInLength cpp inBuf.length ∧ goodOutLength inBuf.length outBuf.length)) (placement : Placement)
    (s : State) : exec (.raster cpp inBuf outBuf placement) s = .fault .rasterPrecondition := by
  rw [exec, execRaster, if_neg (not_not.mpr good)]
  by_cases inLength : goodInLength cpp inBuf.length
  · have outLength : ¬ goodOutLength inBuf.length outBuf.length := fun h => bad ⟨inLength, h⟩
    rw [if_neg (not_not.mpr inLength), if_pos outLength]
  · rw [if_pos inLength]

theorem exec_raster_overlapping (good : goodChannelCount cpp) (inLength : goodInLength cpp inBuf.length)
    (outLength : goodOutLength inBuf.length outBuf.length) (s : State) :
    exec (.raster cpp inBuf outBuf .overlapping) s = .refused .aliasedBuffers := by
  rw [exec, execRaster, if_neg (not_not.mpr good), if_neg (not_not.mpr inLength), if_neg (not_not.mpr outLength),
    if_pos rfl]

/-- RASTER by its operands: the four equations exclude each other and leave nothing out. -/
theorem exec_raster_cases (cpp : Nat) (inBuf outBuf : List Byte) (placement : Placement) :
    (¬ goodChannelCount cpp ∧ ∀ s, exec (.raster cpp inBuf outBuf placement) s = .refused .badChannelCount) ∨
    (goodChannelCount cpp ∧ ¬ (goodInLength cpp inBuf.length ∧ goodOutLength inBuf.length outBuf.length) ∧
      ∀ s, exec (.raster cpp inBuf outBuf placement) s = .fault .rasterPrecondition) ∨
    (placement = .overlapping ∧ ∀ s, exec (.raster cpp inBuf outBuf placement) s = .refused .aliasedBuffers) ∨
    ∀ s, exec (.raster cpp inBuf outBuf placement) s =
      .next { s with rsp := some .ok, rasterOut := Memory.ofBytes (frameBytes cpp inBuf) } := by
  by_cases good : goodChannelCount cpp
  · by_cases lengths : goodInLength cpp inBuf.length ∧ goodOutLength inBuf.length outBuf.length
    · obtain ⟨inLength, outLength⟩ := lengths
      cases placement with
      | independent => exact .inr (.inr (.inr (exec_raster good inLength outLength)))
      | overlapping => exact .inr (.inr (.inl ⟨rfl, exec_raster_overlapping good inLength outLength⟩))
    · exact .inr (.inl ⟨good, lengths, exec_raster_badLength good lengths placement⟩)
  · exact .inl ⟨good, exec_raster_badChannelCount good placement⟩

/-- The inversion of RASTER's loops: on a buffer without gaps they have a result only within the contract, and it is the
frame. -/
theorem raster_some (good : goodChannelCount cpp) (room : out.hasLength out.length = true)
    (frame : raster cpp inBuf out = some m) :
    goodInLength cpp inBuf.length ∧ out.length = 3 * inBuf.length ∧ m = Memory.ofBytes (frameBytes cpp inBuf) := by
  by_cases lengths : goodInLength cpp inBuf.length ∧ goodOutLength inBuf.length out.length
  · obtain ⟨inLength, outLength⟩ := lengths
    rw [raster_eq good inLength (by rwa [outLength] at room), Option.some_inj] at frame
    exact ⟨inLength, outLength, frame.symm⟩
  · rw [raster_eq_none lengths] at frame
    cases frame

theorem Memory.hasLength_length {n : Nat} (h : m.hasLength n = true) : m.hasLength m.length = true := by
  rwa [Memory.length_of_hasLength h]

theorem Memory.ofBytes_hasLength_length (bs : List Byte) :
    (Memory.ofBytes bs).hasLength (Memory.ofBytes bs).length = true :=
  Memory.hasLength_length (Memory.ofBytes_hasLength bs)

theorem frame_hasLength (cpp : Nat) (inBuf : List Byte) :
    (Memory.ofBytes (frameBytes cpp inBuf)).hasLength (3 * inBuf.length) = true := by
  simpa using Memory.ofBytes_hasLength (frameBytes cpp inBuf)

/-- Outside the patterns of the frame RASTER writes nothing. -/
theorem read_raster_outside (good : goodChannelCount cpp) (room : out.hasLength out.length = true)
    (frame : raster cpp inBuf out = some m) {a : Nat}
    (outside : ∀ p c j, p < inBuf.length / cpp → c < cpp → j < 3 → a ≠ outOffset cpp p c + j) :
    Memory.read m a = Memory.read out a := by
  obtain ⟨⟨-, whole⟩, outLength, rfl⟩ := raster_some good room frame
  have beyond : 3 * inBuf.length ≤ a := by
    by_contra inside
    obtain ⟨p, c, j, hp, hc, hj, isIt⟩ := exists_outOffset good whole (Nat.lt_of_not_le inside)
    exact outside p c j hp hc hj isIt
  have bytes : out.bytes.length = 3 * inBuf.length := by rw [Memory.bytes, List.length_map, outLength]
  rw [Memory.read_of_hasLength room, Memory.read_ofBytes, List.getElem?_eq_none (by simpa using beyond),
    List.getElem?_eq_none (by rwa [bytes])]

/-! The triples of a frame (20_memory.md R53, 10_state.md R28). -/

theorem Memory.triple_of_readAll {t : Nat} {p : Pattern} (h : Memory.readAll m (3 * t) 3 = some (bytes3 p)) :
    Memory.triple m t = some p := by
  rw [Memory.triple, h]
  exact congrArg some (bytes3_append p)

/-- The triple of output channel `c` of pixel `p` is the pattern of the channel's source byte. -/
theorem triple_frame {p c : Nat} (good : goodChannelCount cpp) (whole : inBuf.length % cpp = 0)
    (hp : p < inBuf.length / cpp) (hc : c < cpp) :
    ∃ b, inBuf[cpp * p + channelOffset c]? = some b ∧
      Memory.triple (Memory.ofBytes (frameBytes cpp inBuf)) (cpp * p + c) = some (enc b) := by
  obtain ⟨b, source, triple⟩ := readAll_frame good whole hp hc
  rw [Nat.mul_assoc, ← Nat.mul_add] at triple
  exact ⟨b, by rw [channelOffset_eq_src, source], Memory.triple_of_readAll triple⟩

/-- Every triple of a frame is that of some channel of some pixel, so it is a pattern. -/
theorem validFrame_frameBytes (good : goodChannelCount cpp) (whole : inBuf.length % cpp = 0) :
    (Memory.ofBytes (frameBytes cpp inBuf)).validFrame inBuf.length := by
  intro t ht
  have pos : 0 < cpp := by rcases good with h | h <;> omega
  have pixel : t / cpp < inBuf.length / cpp := by
    rwa [Nat.div_lt_iff_lt_mul pos, Nat.div_mul_cancel (Nat.dvd_of_mod_eq_zero whole)]
  obtain ⟨b, -, triple⟩ := triple_frame good whole pixel (Nat.mod_lt t pos)
  rw [Nat.div_add_mod] at triple
  exact ⟨enc b, triple, validPattern_enc b⟩

/-! The loop in any order (decision D20). -/

/-- The loop body over all pairs of the frame, each at least once and in any order, leaves the frame. -/
theorem foldlM_rasterPair_eq_frame {order : List (Nat × Nat)} (good : goodChannelCount cpp)
    (whole : inBuf.length % cpp = 0) (room : out.hasLength (3 * inBuf.length) = true)
    (pairs : ∀ q, q ∈ order ↔ q ∈ framePairs cpp (inBuf.length / cpp)) :
    order.foldlM (rasterPair cpp inBuf) out = some (Memory.ofBytes (frameBytes cpp inBuf)) := by
  obtain ⟨m, run, offsets, reads⟩ := foldlM_rasterPair_spec good whole order (fun q => (pairs q).mp) room
  have room' : m.hasLength (3 * inBuf.length) = true := by
    rw [Memory.hasLength_iff, offsets, Memory.hasLength_iff.mp room]
  rw [run, Memory.ext_of_hasLength room' (frame_hasLength cpp inBuf) fun a ha => ?_]
  obtain ⟨p, c, j, hp, hc, hj, rfl⟩ := exists_outOffset good whole ha
  have pair : (p, c) ∈ order := (pairs _).mpr (mem_framePairs.mpr ⟨hp, hc⟩)
  rw [reads, if_pos ⟨(p, c), pair, Nat.le_add_right _ _, Nat.add_lt_add_left hj _⟩, Memory.read_ofBytes, frameBytes,
    List.getElem?_map, List.getElem?_range ha, Option.map_some]

end

/-- Settles O14: within its contract RASTER leaves the frame in its buffer, and the response is all else it writes. -/
theorem rasterCompletesWithTheFrame : Obligations.RasterCompletesWithTheFrame :=
  fun _ _ _ s good pos whole outLength =>
    ⟨_, isFrame_frameBytes good whole, exec_raster good ⟨pos, whole⟩ outLength s⟩

/-- Settles O16: each clause is the condition of one stop. -/
theorem rasterStopsOutsideItsContract : Obligations.RasterStopsOutsideItsContract := by
  intro cpp inBuf outBuf placement s
  refine ⟨fun bad => exec_raster_badChannelCount (by simpa [goodChannelCount] using bad) placement s,
    fun good bad => exec_raster_badLength good ?_ placement s,
    fun good pos whole outLength => exec_raster_overlapping good ⟨pos, whole⟩ outLength s⟩
  rintro ⟨⟨pos, whole⟩, outLength⟩
  omega

/-- Settles O17: which of its four answers RASTER gives depends on its operands alone, of the old contents on the length
alone. -/
theorem rasterIgnoresStateAndOldContents : Obligations.RasterIgnoresStateAndOldContents := by
  intro cpp inBuf o₁ o₂ placement s₁ s₂ t₁ sameLength answered
  cases exec_effect answered with
  | raster good inLength outLength =>
    refine ⟨⟨_, exec_raster good inLength (by rwa [← sameLength]) s₂, rfl, rfl⟩, ?_⟩
    exact exec_raster good inLength (by simp) _

/-- Settles O20: the loop body over the pairs of the frame leaves the frame in RASTER's own order and in any other. -/
theorem rasterOrderIsUnobservable : Obligations.RasterOrderIsUnobservable := by
  intro cpp inBuf out order good pos whole room perm
  exact ⟨_, raster_eq good ⟨pos, whole⟩ room,
    foldlM_rasterPair_eq_frame good whole room fun _ => perm.mem_iff⟩

/-- Settles O22: ENC has one equation, and RASTER one next state, whose buffer differs from `out` inside the patterns
only. -/
theorem encAndRasterFrame : Obligations.EncAndRasterFrame := by
  refine ⟨fun b s t h => ?_, fun cpp inBuf outBuf placement s t h => ?_⟩
  · cases exec_effect h
    exact ⟨rfl, fun _ => rfl⟩
  · cases exec_effect h with
    | raster good inLength outLength =>
      have frame : raster cpp inBuf (Memory.ofBytes outBuf) = some (Memory.ofBytes (frameBytes cpp inBuf)) :=
        raster_eq good inLength (by rw [← outLength]; exact Memory.ofBytes_hasLength outBuf)
      exact ⟨rfl, fun _ => rfl, fun a => read_raster_outside good (Memory.ofBytes_hasLength_length outBuf) frame⟩

end Sys2Proof.Machine

/-! PROOFS. The laws of a rastered buffer (41_frame_rasterizer.md R140, 20_memory.md R55): its bytes pixel by pixel, its
bits on the wire, and how its triples determine the input bytes. -/

namespace Sys2Proof.Machine

/-! Pixel by pixel. -/

/-- Counting to `k * n` in `n` blocks of `k`. -/
theorem range_mul (k n : Nat) :
    List.range (k * n) = (List.range n).flatMap fun p => (List.range k).map fun c => k * p + c := by
  induction n with
  | zero => simp
  | succ n ih => simp [Nat.mul_succ, List.range_add, ih, List.range_succ]

/-- The bytes a pixel gets in the frame (30_encoding.md R90). -/
def pixelBytes (cpp : Nat) (inBuf : List Byte) (p : Nat) : List Byte :=
  (List.range cpp).flatMap fun c => bytes3 (enc (inBuf.getD (inOffset cpp p c) 0#8))

theorem frameBytes_eq_flatMap {cpp : Nat} {inBuf : List Byte} (whole : inBuf.length % cpp = 0) :
    frameBytes cpp inBuf = (List.range (inBuf.length / cpp)).flatMap (pixelBytes cpp inBuf) := by
  have length : inBuf.length = cpp * (inBuf.length / cpp) := (Nat.mul_div_cancel' (Nat.dvd_of_mod_eq_zero whole)).symm
  conv_lhs => rw [frameBytes, length, range_mul, range_mul, List.map_flatMap, List.flatMap_assoc]
  refine List.flatMap_congr fun p _ => ?_
  rw [pixelBytes, List.flatMap_map]
  refine List.flatMap_congr fun c hc => ?_
  rw [List.map_map]
  exact List.map_congr_left fun j hj => frameByte_outOffset inBuf (List.mem_range.mp hc) (List.mem_range.mp hj)

/-- The pattern of a channel byte on the wire (20_memory.md R55): its eight groups, the one of bit 7 first. -/
theorem flatMap_byteBits_bytes3_enc (b : Byte) : (bytes3 (enc b)).flatMap byteBits = wireBits b := by
  have sources : [7, 6, 5, 4, 3, 2, 1, 0] = (List.range 8).map (7 - ·) := rfl
  rw [flatMap_byteBits_bytes3, wireBits, sources, List.flatMap_map, range_mul 3 8, List.map_flatMap]
  refine List.flatMap_congr fun i hi => ?_
  have inside := List.mem_range.mp hi
  have source : 7 - i < 8 := by omega
  have high : 23 - 3 * i = 3 * (7 - i) + 2 := by omega
  have middle : 22 - 3 * i = 3 * (7 - i) + 1 := by omega
  have low : 21 - 3 * i = 3 * (7 - i) := by omega
  simp [List.range_succ, high, middle, low, enc_getLsbD_high b source, enc_getLsbD_source b source, enc_getLsbD_low]

/-- Settles O13: the bits of the frame, taken pixel by pixel and channel by channel, are the groups of its source
bytes. -/
theorem wireOrderOfGroups : Obligations.WireOrderOfGroups := by
  intro cpp inBuf out m good room frame
  obtain ⟨⟨-, whole⟩, -, rfl⟩ := raster_some good (Memory.hasLength_length room) frame
  rw [stream_ofBytes, frameBytes_eq_flatMap whole, List.flatMap_assoc]
  refine List.flatMap_congr fun p _ => ?_
  rw [pixelBytes, List.flatMap_assoc]
  refine List.flatMap_congr fun c _ => ?_
  rw [flatMap_byteBits_bytes3_enc, inOffset, channelOffset_eq_src]

/-! Concatenation (R140 (e), (f)). -/

theorem pixelBytes_append_left {cpp p : Nat} {a : List Byte} (good : goodChannelCount cpp)
    (whole : a.length % cpp = 0) (hp : p < a.length / cpp) (b : List Byte) :
    pixelBytes cpp (a ++ b) p = pixelBytes cpp a p := by
  refine List.flatMap_congr fun c hc => ?_
  rw [List.getD_append _ _ _ _ (inOffset_lt good whole hp (List.mem_range.mp hc))]

theorem pixelBytes_append_right {cpp : Nat} {a : List Byte} (whole : a.length % cpp = 0) (b : List Byte) (p : Nat) :
    pixelBytes cpp (a ++ b) (a.length / cpp + p) = pixelBytes cpp b p := by
  have length : cpp * (a.length / cpp) = a.length := Nat.mul_div_cancel' (Nat.dvd_of_mod_eq_zero whole)
  refine List.flatMap_congr fun c _ => ?_
  have offset : inOffset cpp (a.length / cpp + p) c = a.length + inOffset cpp p c := by
    rw [inOffset, Nat.mul_add, length, Nat.add_assoc, inOffset]
  rw [offset, List.getD_append_right _ _ _ _ (Nat.le_add_right _ _), Nat.add_sub_cancel_left]

theorem frameBytes_append {cpp : Nat} {a b : List Byte} (good : goodChannelCount cpp) (wholeA : a.length % cpp = 0)
    (wholeB : b.length % cpp = 0) : frameBytes cpp (a ++ b) = frameBytes cpp a ++ frameBytes cpp b := by
  have wholeAB : (a ++ b).length % cpp = 0 := by
    rw [List.length_append, Nat.add_mod, wholeA, wholeB, Nat.zero_add, Nat.zero_mod]
  have pixels : (a ++ b).length / cpp = a.length / cpp + b.length / cpp := by
    rw [List.length_append, Nat.add_div_of_dvd_right (Nat.dvd_of_mod_eq_zero wholeA)]
  rw [frameBytes_eq_flatMap wholeAB, frameBytes_eq_flatMap wholeA, frameBytes_eq_flatMap wholeB, pixels,
    List.range_add, List.flatMap_append, List.flatMap_map]
  congr 1
  · exact List.flatMap_congr fun p hp => pixelBytes_append_left good wholeA (List.mem_range.mp hp) b
  · exact List.flatMap_congr fun p _ => pixelBytes_append_right wholeA b p

/-- Settles O19: a pixel's bytes depend on its own input bytes, and the first three channels of an RGBW pixel are those
of its RGB pixel. -/
theorem rasterWorksPixelByPixel : Obligations.RasterWorksPixelByPixel := by
  refine ⟨fun cpp a b oa ob oc ma mb mc good frameA frameB frameAB => ?_,
    fun r g b w o₃ o₄ m₃ m₄ frame₃ frame₄ => ?_⟩
  · obtain ⟨⟨-, wholeA⟩, -, rfl⟩ := raster_some good (Memory.ofBytes_hasLength_length oa) frameA
    obtain ⟨⟨-, wholeB⟩, -, rfl⟩ := raster_some good (Memory.ofBytes_hasLength_length ob) frameB
    obtain ⟨-, -, rfl⟩ := raster_some good (Memory.ofBytes_hasLength_length oc) frameAB
    simp only [Memory.ofBytes_bytes]
    exact frameBytes_append good wholeA wholeB
  · obtain ⟨-, -, rfl⟩ := raster_some (.inl rfl) (Memory.ofBytes_hasLength_length o₃) frame₃
    obtain ⟨-, -, rfl⟩ := raster_some (.inr rfl) (Memory.ofBytes_hasLength_length o₄) frame₄
    simp [frameBytes_eq_flatMap, pixelBytes, List.range_succ, inOffset, src, bytes3]

/-! Recovery and locality (R140 (a) to (d)). -/

/-- Every input offset is that of a channel of a pixel. -/
theorem exists_channelOffset {cpp len i : Nat} (good : goodChannelCount cpp) (whole : len % cpp = 0) (hi : i < len) :
    ∃ p c, p < len / cpp ∧ c < cpp ∧ i = cpp * p + channelOffset c := by
  have pos : 0 < cpp := by rcases good with h | h <;> omega
  refine ⟨i / cpp, src (i % cpp), ?_, src_lt good (Nat.mod_lt i pos), ?_⟩
  · rwa [Nat.div_lt_iff_lt_mul pos, Nat.div_mul_cancel (Nat.dvd_of_mod_eq_zero whole)]
  · rw [channelOffset_eq_src, src_src, Nat.div_add_mod]

/-- DEC of a triple of the frame is the channel's source byte. -/
theorem source_eq_dec_triple {cpp p c : Nat} {inBuf : List Byte} (good : goodChannelCount cpp)
    (whole : inBuf.length % cpp = 0) (hp : p < inBuf.length / cpp) (hc : c < cpp) :
    inBuf[cpp * p + channelOffset c]? =
      (Memory.triple (Memory.ofBytes (frameBytes cpp inBuf)) (cpp * p + c)).map dec := by
  obtain ⟨b, source, triple⟩ := triple_frame good whole hp hc
  rw [source, triple, Option.map_some, dec_enc]

/-- Two inputs with one frame are equal: the frame gives the length, and DEC each byte. -/
theorem frameBytes_injective {cpp : Nat} {a b : List Byte} (good : goodChannelCount cpp) (wholeA : a.length % cpp = 0)
    (wholeB : b.length % cpp = 0) (same : frameBytes cpp a = frameBytes cpp b) : a = b := by
  have length : a.length = b.length := by
    have := congrArg List.length same
    rw [frameBytes_length, frameBytes_length] at this
    omega
  apply List.ext_getElem?
  intro i
  by_cases hi : i < a.length
  · obtain ⟨p, c, hp, hc, rfl⟩ := exists_channelOffset good wholeA hi
    rw [source_eq_dec_triple good wholeA hp hc, source_eq_dec_triple good wholeB (by rwa [← length]) hc, same]
  · rw [List.getElem?_eq_none (by omega), List.getElem?_eq_none (by omega)]

/-- The patterns of two bytes differ only at the bits of source bits in which the bytes differ. -/
theorem exists_source_of_enc_ne {a b : Byte} {j : Nat} (differ : (enc a).getLsbD j ≠ (enc b).getLsbD j) :
    ∃ k, j = 3 * k + 1 ∧ a.getLsbD k ≠ b.getLsbD k := by
  rw [enc_getLsbD, enc_getLsbD] at differ
  have source : j % 3 = 1 := by
    by_contra constant
    exact differ (by simp [constant])
  refine ⟨j / 3, by omega, fun same => differ ?_⟩
  rw [same]

/-- Settles O18: the triples of the frame are the patterns of the input bytes, which DEC recovers and of which a changed
byte changes its own. -/
theorem rasterResultIsRecoverableAndLocal : Obligations.RasterResultIsRecoverableAndLocal := by
  intro cpp inBuf out m good room frame
  obtain ⟨⟨-, whole⟩, -, rfl⟩ := raster_some good (Memory.hasLength_length room) frame
  refine ⟨by simp, validFrame_frameBytes good whole, fun p c hp hc => source_eq_dec_triple good whole hp hc,
    fun inBuf' out' room' frame' => ?injective, fun i v m' frame' p c hp hc => ?locality⟩
  case injective =>
    obtain ⟨⟨-, whole'⟩, -, same⟩ := raster_some good (Memory.hasLength_length room') frame'
    refine frameBytes_injective good whole' whole ?_
    rw [← Memory.ofBytes_bytes (frameBytes cpp inBuf'), ← same, Memory.ofBytes_bytes]
  case locality =>
    obtain ⟨⟨-, whole'⟩, -, rfl⟩ := raster_some good (Memory.hasLength_length room) frame'
    obtain ⟨b, source, triple⟩ := triple_frame good whole hp hc
    obtain ⟨b', source', triple'⟩ := triple_frame good whole' (by simpa using hp) hc
    rw [triple, triple']
    constructor
    · intro other
      rw [List.getElem?_set_ne (Ne.symm other), source, Option.some_inj] at source'
      rw [source']
    · rintro rfl x y ⟨⟩ ⟨⟩ j - differ
      have inside : cpp * p + channelOffset c < inBuf.length := by
        rw [channelOffset_eq_src]; exact inOffset_lt good whole hp hc
      rw [List.getElem?_set_self inside, Option.some_inj] at source'
      rw [List.getD_eq_getElem?_getD, source, source', Option.getD_some]
      exact exists_source_of_enc_ne differ

end Sys2Proof.Machine

/-! PROOFS. The invariant of the machine (10_state.md section 2). What an effect does to the state is one of six
changes, whatever the command and its response; each part of the invariant is kept by every change, hence by every step
and every run. -/

namespace Sys2Proof.Machine

/-! The changes of the state. -/

/-- The commands that hand frames to TX (43_external_interfaces.md R180). -/
abbrev Sends (i : Instr) : Prop := (∃ bs, i = .write bs) ∨ i = .halt

/-- WRITE and HALT have passed their checks of the frame `bs`, and `out` is `OBUF` after its raster. -/
structure State.NewFrame (s : State) (bs : List Byte) (out : Memory) : Prop where
  configured : s.configured = true
  whole : bs.length = s.frameLen
  pos : 0 < bs.length
  frame : raster s.cpp bs s.obuf = some out

theorem State.zeroFrame_length (s : State) : s.zeroFrame.length = s.frameLen := List.length_replicate

theorem State.frameLen_pos {s : State} (pixels : s.pixCount ≠ 0) : 0 < s.frameLen :=
  Nat.mul_pos s.cpp_pos (Nat.pos_of_ne_zero pixels)

theorem State.zeroFrame_pos {s : State} (pixels : s.pixCount ≠ 0) : 0 < s.zeroFrame.length :=
  s.zeroFrame_length ▸ State.frameLen_pos pixels

theorem State.newFrame_zeroFrame {s : State} {out : Memory} (configured : s.configured = true) (pixels : s.pixCount ≠ 0)
    (frame : raster s.cpp s.zeroFrame s.obuf = some out) : s.NewFrame s.zeroFrame out where
  configured := configured
  whole := s.zeroFrame_length
  pos := State.zeroFrame_pos pixels
  frame := frame

/-- What a command does to the state: it answers only, leaves RASTER's buffer, constructs the handle, or stores a new
frame and then answers at once, after the handoff, or never. -/
inductive Change : Instr → State → State → Prop where
  | answered {i : Instr} {s : State} (r : Response) : Change i s (s.answer r)
  | rastered {cpp : Nat} {inBuf outBuf : List Byte} {placement : Placement} {s : State} :
      Change (.raster cpp inBuf outBuf placement) s
        ((s.leaveRasterOut (Memory.ofBytes (frameBytes cpp inBuf))).answer .ok)
  | constructed {n v : Nat} {w : Bool} {s : State} (fresh : s.configured = false) (speed : v ≠ 0) :
      Change (.config n v w) s ((s.configure n v w).answer .ok)
  | stored {i : Instr} {s : State} {bs : List Byte} {out : Memory} (command : Sends i) (new : s.NewFrame bs out)
      (r : Response) : Change i s ((s.setObuf out).answer r)
  | sent {i : Instr} {s : State} {bs : List Byte} {out : Memory} (command : Sends i) (new : s.NewFrame bs out)
      (present : s.txPresent = true) (r : Response) : Change i s ((s.setObuf out).handOver.answer r)
  | waits {i : Instr} {s : State} {bs : List Byte} {out : Memory} (command : Sends i) (new : s.NewFrame bs out)
      (present : s.txPresent = true) (silent : s.txReply = .silent) : Change i s (s.setObuf out).handOver.await

theorem Effect.change {i : Instr} {s t : State} (h : Effect i s t) : Change i s t := by
  cases h with
  | enc | configError | lengthError | haltUnsent => exact .answered _
  | raster => exact .rastered
  | config fresh speed => exact .constructed fresh speed
  | writeUnsent configured whole pos frame => exact .stored (.inl ⟨_, rfl⟩) ⟨configured, whole, pos, frame⟩ _
  | writeSent configured whole pos frame present | writeFailed configured whole pos frame present =>
    exact .sent (.inl ⟨_, rfl⟩) ⟨configured, whole, pos, frame⟩ present _
  | writeWaits configured whole pos frame present silent =>
    exact .waits (.inl ⟨_, rfl⟩) ⟨configured, whole, pos, frame⟩ present silent
  | haltSent configured pixels frame present | haltFailed configured pixels frame present =>
    exact .sent (.inr rfl) (State.newFrame_zeroFrame configured pixels frame) present _
  | haltWaits configured pixels frame present silent =>
    exact .waits (.inr rfl) (State.newFrame_zeroFrame configured pixels frame) present silent

/-- An effect keeps the handle, or is the CONFIG that constructs it. -/
theorem Effect.sameHandle_or_constructed {i : Instr} {s t : State} (h : Effect i s t) :
    s.SameHandle t ∨ ∃ n v w, v ≠ 0 ∧ t = (s.configure n v w).answer .ok := by
  cases i with
  | config n v w =>
    cases h with
    | configError => exact .inl (.answer s _)
    | config _ speed => exact .inr ⟨n, v, w, speed, rfl⟩
  | _ => exact .inl (h.sameHandle (.inr nofun))

theorem Sends.ne_config {i : Instr} (command : Sends i) (n v : Nat) (w : Bool) : i ≠ .config n v w := by
  rcases command with ⟨bs, rfl⟩ | rfl <;> nofun

/-! The handle and the buffers. -/

theorem State.SameHandle.cpp {s t : State} (same : s.SameHandle t) : t.cpp = s.cpp := congrArg channels same.white

theorem State.SameHandle.handleOk {s t : State} (same : s.SameHandle t) (ok : s.handleOk) : t.handleOk := by
  constructor
  · intro fresh
    have empty : s.obuf = [] := ok.1 (same.configured.symm.trans fresh)
    simpa [empty] using same.offsets
  · intro configured
    rw [same.speedHz, same.cpp, same.pixCount, Memory.hasLength_iff, same.offsets, ← Memory.hasLength_iff]
    exact ok.2 (same.configured.symm.trans configured)

theorem State.configure_handleOk (s : State) (n : Nat) {v : Nat} (w : Bool) (speed : v ≠ 0) :
    (s.configure n v w).handleOk :=
  ⟨nofun, fun _ => ⟨speed, freshBuffer_hasLength _ _⟩⟩

theorem Effect.handleOk {i : Instr} {s t : State} (h : Effect i s t) (ok : s.handleOk) : t.handleOk := by
  rcases h.sameHandle_or_constructed with same | ⟨n, v, w, speed, rfl⟩
  · exact same.handleOk ok
  · exact (State.SameHandle.answer _ _).handleOk (s.configure_handleOk n w speed)

theorem Effect.buffersOk {i : Instr} {s t : State} (h : Effect i s t) (ok : s.buffersOk) : t.buffersOk := by
  obtain ⟨obuf, rasterOut⟩ := ok
  constructor
  · rcases h.sameHandle_or_constructed with same | ⟨n, v, w, -, rfl⟩
    · rw [Memory.wf_congr same.offsets, obuf]
    · exact Memory.wf_of_hasLength (freshBuffer_hasLength _ _)
  · cases h.change with
    | rastered => exact Memory.wf_of_hasLength (frame_hasLength _ _)
    | _ => simpa using rasterOut

/-! The new frame and its call of TX. -/

section
variable {s : State} {bs : List Byte} {out : Memory}

theorem State.NewFrame.room (new : s.NewFrame bs out) (ok : s.handleOk) :
    s.obuf.hasLength (3 * bs.length) = true := by
  rw [new.whole, State.frameLen, ← Nat.mul_assoc]
  exact (ok.2 new.configured).2

/-- The new frame is all that `OBUF` holds afterwards. -/
theorem State.NewFrame.eq_frame (new : s.NewFrame bs out) (ok : s.handleOk) :
    bs.length % s.cpp = 0 ∧ out = Memory.ofBytes (frameBytes s.cpp bs) := by
  obtain ⟨⟨-, whole⟩, -, isIt⟩ := raster_some s.cpp_good (Memory.hasLength_length (new.room ok)) new.frame
  exact ⟨whole, isIt⟩

theorem State.NewFrame.validFrame (new : s.NewFrame bs out) (ok : s.handleOk) :
    out.validFrame (s.cpp * s.pixCount) := by
  obtain ⟨whole, rfl⟩ := new.eq_frame ok
  have valid := validFrame_frameBytes s.cpp_good whole
  rwa [new.whole] at valid

/-- The call carries eight bits for each byte of `OBUF`. -/
theorem State.NewFrame.call_length (new : s.NewFrame bs out) (ok : s.handleOk) :
    (s.setObuf out).txCall.bits.length = 24 * s.cpp * s.pixCount := by
  obtain ⟨-, rfl⟩ := new.eq_frame ok
  rw [State.txCall, State.setObuf_obuf, stream_length (frame_hasLength _ _), new.whole, State.frameLen]
  ring

/-- Decision D15: the period is exact. -/
theorem State.NewFrame.call_period (new : s.NewFrame bs out) (ok : s.handleOk) :
    (s.setObuf out).txCall.period * (s.speedHz : Rat) = 1 :=
  one_div_mul_cancel (Nat.cast_ne_zero.mpr (ok.2 new.configured).1)

/-- TX is handed at least one bit and a positive period (43_external_interfaces.md R180). -/
theorem State.NewFrame.call_ok (new : s.NewFrame bs out) (ok : s.handleOk) :
    (s.setObuf out).txCall.bits ≠ [] ∧ 0 < (s.setObuf out).txCall.period := by
  constructor
  · have pos : 0 < s.frameLen := new.whole ▸ new.pos
    rw [← List.length_pos_iff, new.call_length ok, Nat.mul_assoc]
    exact Nat.mul_pos (by decide) pos
  · exact one_div_pos.mpr (Nat.cast_pos.mpr (Nat.pos_of_ne_zero (ok.2 new.configured).1))

end

theorem State.callsOk_append {s t : State} {c : TxCall} (ok : s.callsOk) (call : c.bits ≠ [] ∧ 0 < c.period)
    (calls : t.txCalls = s.txCalls ++ [c]) : t.callsOk := by
  intro d hd
  rw [calls, List.mem_append, List.mem_singleton] at hd
  rcases hd with old | rfl
  · exact ok d old
  · exact call

theorem Effect.callsOk {i : Instr} {s t : State} (h : Effect i s t) (handle : s.handleOk) (ok : s.callsOk) :
    t.callsOk := by
  cases h.change with
  | sent _ new | waits _ new => exact State.callsOk_append ok (new.call_ok handle) (by simp)
  | _ => exact ok

@[simp] theorem State.await_txCall (s : State) : s.await.txCall = s.txCall := rfl

@[simp] theorem State.handOver_txCall (s : State) : s.handOver.txCall = s.txCall := by simp [State.txCall]

/-- A block that takes a command does not wait; the one change that makes it wait has made its call. -/
theorem Effect.waitOk {i : Instr} {s t : State} (h : Effect i s t) (idle : s.waiting = false) : t.waitOk := by
  cases h.change with
  | waits _ new present => exact fun _ => ⟨by simpa using new.configured, by simpa using present, by simp, rfl⟩
  | _ => intro waiting; simp [idle] at waiting

theorem Effect.inv {i : Instr} {s t : State} (h : Effect i s t) (idle : s.waiting = false) (inv : s.inv) : t.inv := by
  obtain ⟨handle, buffers, calls, -⟩ := inv
  exact ⟨h.handleOk handle, h.buffersOk buffers, h.callsOk handle calls, h.waitOk idle⟩

/-- Settles O47: a step waits, or has an effect on the state with the command taken from the pending ones, which the
invariant does not read. -/
theorem everyStepKeepsTheInvariant : Obligations.EveryStepKeepsTheInvariant := by
  intro s t inv h
  obtain ⟨-, ⟨-, rfl⟩ | ⟨c, rest, i, idle, -, -, effect⟩⟩ := step_next h
  · exact inv
  · exact effect.inv (s := s.accept rest) idle inv

theorem Effect.validFrame {i : Instr} {s t : State} (h : Effect i s t) (ok : s.handleOk)
    (configured : s.configured = true) (valid : s.obuf.validFrame (s.cpp * s.pixCount)) :
    t.obuf.validFrame (t.cpp * t.pixCount) := by
  have same := h.sameHandle (.inl configured)
  rw [same.cpp, same.pixCount]
  cases h.change with
  | answered | rastered => exact valid
  | constructed fresh => rw [fresh] at configured; cases configured
  | stored _ new => exact new.validFrame ok
  | sent _ new | waits _ new => simpa using new.validFrame ok

/-- Settles O50: from a configured state a step keeps the handle, and what it stores in `OBUF` is a frame. -/
theorem validFrameIsKept : Obligations.ValidFrameIsKept := by
  intro s t ok configured valid h
  have same := step_sameHandle configured h
  refine ⟨same.handleOk ok, same.configured.trans configured, ?_⟩
  obtain ⟨-, ⟨-, rfl⟩ | ⟨c, rest, i, -, -, -, effect⟩⟩ := step_next h
  · exact valid
  · exact effect.validFrame (s := s.accept rest) ok configured valid

end Sys2Proof.Machine

/-! PROOFS. Steps and runs (10_state.md sections 3 and 4): what a step does with the pending commands and the marks, and
what every run keeps. -/

namespace Sys2Proof.Machine

/-! One step (log 2). -/

/-- A step that is free to take a command runs the one that is decoded. -/
theorem step_of_decode {s : State} {c : Command} {rest : List Command} {i : Instr} (unmarked : s.unmarked)
    (idle : s.waiting = false) (next : s.pending = c :: rest) (decoded : decode c = .instr i) :
    step s = exec i (s.accept rest) := by
  obtain ⟨noFault, noRefusal⟩ := unmarked
  rw [step_of_pending (s.marked_none noFault noRefusal) idle next, runCommand, decoded]

/-- Settles O53: a step that is free to take a command runs the one that is decoded. -/
theorem stepRunsTheDecodedCommand : Obligations.StepRunsTheDecodedCommand :=
  fun _ _ _ _ noFault noRefusal idle next decoded => step_of_decode ⟨noFault, noRefusal⟩ idle next decoded

theorem decode_tableCommand {nbits w : Nat} {i : Instr} (h : decodeTableWord nbits w = some i) :
    decode (tableCommand nbits w) = .instr i := by
  rw [decodeTableWord] at h
  split at h
  · next decoded => rw [decoded, Option.some_inj.mp h]
  · cases h

/-- Settles O54: the two ways of taking no command, and the command put first, which the step removes again. -/
theorem stepWaitsAndRefusesReservedCodes : Obligations.StepWaitsAndRefusesReservedCodes := by
  refine ⟨fun s noFault noRefusal idle => ⟨fun nothing => ?_, fun c rest next reserved => ?_⟩, fun s w i word => ?_⟩
  · simp [step, s.marked_none noFault noRefusal, idle, nothing]
  · have rejected : decode c = .rejected .reservedCommand := by
      rcases decode_cases c with ⟨op, -⟩ | ⟨op, -⟩ | ⟨op, -⟩ | ⟨op, -⟩ | ⟨op, -⟩ | ⟨-, d⟩
      case inr.inr.inr.inr.inr => exact d
      all_goals rw [op] at reserved; exact absurd reserved (by decide)
    rw [step_of_pending (s.marked_none noFault noRefusal) idle next, runCommand, rejected]
  · exact step_of_decode (s := s.issueFirst _) ⟨rfl, rfl⟩ rfl rfl (decode_tableCommand word)

/-! Runs. -/

theorem runFor_of_advance_eq {s : State} (fixed : advance s = s) (n : Nat) : runFor n s = s := by
  induction n with
  | zero => rfl
  | succ n ih => rw [runFor, fixed, ih]

/-- What every step keeps and no mark changes is kept by every run. -/
theorem runFor_keeps {P : State → Prop} (next : ∀ s t, P s → step s = .next t → P t)
    (fault : ∀ s f, P s → P { s with faulted := some f }) (refusal : ∀ s r, P s → P { s with refused := some r })
    (n : Nat) {s : State} (h : P s) : P (runFor n s) := by
  have advanced : ∀ s, P s → P (advance s) := by
    intro s h
    rw [advance]
    cases answer : step s with
    | next t => exact next s t h answer
    | fault f => exact fault s f h
    | refused r => exact refusal s r h
  induction n generalizing s with
  | zero => exact h
  | succ n ih => exact ih (advanced s h)

/-- Settles O55: a stop sets its mark, and the step of a marked state does nothing but answer its stop again
(log 14). -/
theorem marksAreSticky : Obligations.MarksAreSticky := by
  refine ⟨fun s f h => ?_, fun s r h => ?_, fun n s f marked => ⟨?_, ?_⟩, fun n s r noFault marked => ⟨?_, ?_⟩⟩
  · rw [advance, h]; rfl
  · rw [advance, h]; rfl
  · exact runFor_of_advance_eq (advance_of_marked fun unmarked => by simp [unmarked.1] at marked) n
  · simp [step, State.marked, marked]
  · exact runFor_of_advance_eq (advance_of_marked fun unmarked => by simp [unmarked.2] at marked) n
  · simp [step, State.marked, noFault, marked]

/-! Reset and the invariant (R35). -/

/-- Settles O45: these are fields of the reset state. -/
theorem resetLeavesNoHandle : Obligations.ResetLeavesNoHandle := ⟨rfl, rfl, rfl, rfl⟩

/-- Whatever the inputs: without a handle, buffers and calls the invariant has nothing to hold of. -/
theorem inv_reset (commands : List Command) (script : List TxReply) (present : Option Bool) (draws : Nat) :
    ({ State.reset with
      pending := commands, txScript := script, txArgument := present, draws := draws } : State).inv :=
  ⟨⟨fun _ => rfl, nofun⟩, ⟨rfl, rfl⟩, nofun, nofun⟩

/-- Settles O46: reset with no input. -/
theorem invariantHoldsAtReset : Obligations.InvariantHoldsAtReset := inv_reset [] [] none 0

/-- Settles O48: it holds at reset, every step keeps it, and no part of it reads the marks. -/
theorem everyRunKeepsTheInvariant : Obligations.EveryRunKeepsTheInvariant :=
  fun n commands script present draws =>
    runFor_keeps everyStepKeepsTheInvariant (fun _ _ inv => inv) (fun _ _ inv => inv) n
      (inv_reset commands script present draws)

/-! `TX_PRESENT` (decision D17). -/

theorem Effect.txArgument {i : Instr} {s t : State} (h : Effect i s t) : t.txArgument = s.txArgument := by
  cases h.change <;> simp

theorem step_txArgument {s t : State} (h : step s = .next t) : t.txArgument = s.txArgument := by
  obtain ⟨-, ⟨-, rfl⟩ | ⟨c, rest, i, -, -, -, effect⟩⟩ := step_next h
  · rfl
  · exact effect.txArgument

theorem runFor_txArgument (n : Nat) (s : State) : (runFor n s).txArgument = s.txArgument :=
  runFor_keeps (P := fun t => t.txArgument = s.txArgument) (fun _ _ kept h => (step_txArgument h).trans kept)
    (fun _ _ kept => kept) (fun _ _ kept => kept) n rfl

theorem State.txPresent_congr {s t : State} (h : t.txArgument = s.txArgument) : t.txPresent = s.txPresent :=
  congrArg (·.getD Config.txPresent) h

/-- Settles O44: no effect writes the argument, so no step and no run does. -/
theorem txPresenceIsConstant : Obligations.TxPresenceIsConstant :=
  ⟨fun _ _ _ h => State.txPresent_congr (exec_effect h).txArgument,
    fun n s => State.txPresent_congr (runFor_txArgument n s),
    fun n _ _ => State.txPresent_congr (runFor_txArgument n _)⟩

/-! What no command reads (R32 (f), R35). -/

/-- No check of a command reads the response, and each way a command ends overwrites it. -/
theorem exec_of_answer (i : Instr) (s : State) (r : Response) : exec i (s.answer r) = exec i s := by
  cases i with
  | enc b => rfl
  | raster cpp inBuf outBuf placement =>
    rcases exec_raster_cases cpp inBuf outBuf placement with ⟨-, h⟩ | ⟨-, -, h⟩ | ⟨-, h⟩ | h <;> rw [h, h]
    rfl
  | config n v w => simp only [exec, execConfig, State.answer_configured, raise_of_answer]; rfl
  | write bs => exact exec_write_of_answer bs s r
  | halt => simp [exec, execHalt, State.zeroFrame]

/-- Settles O52: two states that differ in the response only are equal once both have the same response. -/
theorem lastResponseIsNeverRead : Obligations.LastResponseIsNeverRead := by
  intro i s r
  rw [← exec_of_answer i { s with rsp := r } .ok, ← exec_of_answer i s .ok]
  rfl

/-- Settles O51: ENC and RASTER read no state, CONFIG overwrites the registers, and WRITE and HALT are refused. -/
theorem unwrittenRegistersAreNeverRead : Obligations.UnwrittenRegistersAreNeverRead := by
  intro i s n v w fresh
  cases i with
  | enc b => simp [exec_enc, fresh]
  | raster cpp inBuf outBuf placement =>
    rcases exec_raster_cases cpp inBuf outBuf placement with ⟨-, h⟩ | ⟨-, -, h⟩ | ⟨-, h⟩ | h <;> simp [h, fresh]
  | config n' v' w' =>
    by_cases speed : v' = 0 <;> simp [exec, execConfig, raise, speed, fresh, State.configure, State.answer]
  | write bs => simp [exec, execWrite, fresh]
  | halt => simp [exec, execHalt, fresh]

end Sys2Proof.Machine

/-! PROOFS. CONFIG, WRITE and HALT (42_device_handle.md, 43_external_interfaces.md): how each completes, how it stops,
and what it answers and leaves. -/

namespace Sys2Proof.Machine

/-! CONFIG (R151). -/

/-- Settles O23: the three ways CONFIG ends; the new buffer is as long as the free values it is filled with. -/
theorem configConstructsTheHandle : Obligations.ConfigConstructsTheHandle := by
  intro n v w s
  refine ⟨fun fresh speed => ⟨(List.range (3 * channels w * n)).map (Config.freeByte s.draws), ?_, _,
    (Effect.config fresh speed).exec, rfl, rfl, rfl⟩, fun fresh => (Effect.configError fresh).exec,
    fun configured => exec_config_of_configured configured n v w⟩
  rw [List.length_map, List.length_range, channels]

/-! The state after a handoff (R180). -/

section
variable (s : State) (out : Memory)

@[simp] theorem State.setObuf_consumeReply : (s.setObuf out).consumeReply = s.consumeReply.setObuf out := by
  unfold State.consumeReply
  rw [State.setObuf_txScript]
  split <;> rfl

/-- The state once the new frame is stored and TX has been called with it. -/
theorem State.handOver_setObuf : (s.setObuf out).handOver = { s.consumeReply with
    obuf := out
    txCalls := s.txCalls ++ [{ bits := stream out, period := 1 / (s.speedHz : Rat) }] } := by
  rw [State.handOver, State.setObuf_consumeReply, ← State.consumeReply_txCalls s]
  rfl

end

/-! WRITE and HALT of a whole frame (R154, R157). -/

theorem State.pixels_of_whole {s : State} {bs : List Byte} (whole : bs.length = s.cpp * s.pixCount)
    (pos : 0 < bs.length) : s.pixCount ≠ 0 := by
  rintro noPixels
  rw [noPixels, Nat.mul_zero] at whole
  omega

/-- Settles O29: the frame rasters, and the effect of a WRITE whose frame is sent is the state asked for. -/
theorem writeSendsTheFrame : Obligations.WriteSendsTheFrame := by
  intro bs s configured whole pos room present reply
  obtain ⟨out, frame, isIt⟩ := exists_raster_of_whole whole pos room
  refine ⟨out, isIt, ?_⟩
  rw [(Effect.writeSent configured whole pos frame present reply).exec, State.handOver_setObuf]
  rfl

/-- A list of zeros holds zero everywhere, and the default of a read past its end is zero too. -/
theorem getD_replicate_zero (n i : Nat) : (List.replicate n (0#8 : Byte)).getD i 0#8 = 0#8 := by
  rw [List.getD_eq_getElem?_getD, List.getElem?_replicate]
  split <;> rfl

/-- The frame of dark pixels is `92 49 24` for every channel byte (R157). -/
theorem frameBytes_zeros (cpp n : Nat) :
    frameBytes cpp (List.replicate n 0#8) = (List.replicate n [0x92#8, 0x49#8, 0x24#8]).flatten := by
  have dark (t : Nat) : (List.range 3).map (fun j => frameByte cpp (List.replicate n 0#8) (3 * t + j)) =
      [0x92#8, 0x49#8, 0x24#8] := by
    simp only [frameByte, getD_replicate_zero, enc_0x00, Nat.mul_add_mod]
    decide
  rw [frameBytes, List.length_replicate, range_mul, List.map_flatMap]
  simp only [List.map_map, Function.comp_def, dark]
  rw [List.flatMap_def, List.map_const', List.length_range]

theorem exists_raster_zeroFrame {s : State} (pixels : s.pixCount ≠ 0)
    (room : s.obuf.hasLength (3 * s.cpp * s.pixCount) = true) :
    ∃ out, raster s.cpp s.zeroFrame s.obuf = some out ∧ isFrame s.cpp s.zeroFrame out :=
  exists_raster_of_whole s.zeroFrame_length (State.zeroFrame_pos pixels) room

/-- Settles O30: the dark frame rasters to its known bytes, and the effect of a HALT whose frame is sent is the state
asked for. -/
theorem haltSendsTheDarkFrame : Obligations.HaltSendsTheDarkFrame := by
  intro s configured pixels room present reply
  obtain ⟨out, frame, -⟩ := exists_raster_zeroFrame pixels.ne' room
  obtain ⟨-, -, isIt⟩ := raster_some s.cpp_good (Memory.hasLength_length room) frame
  refine ⟨out, isIt.trans (congrArg Memory.ofBytes (frameBytes_zeros _ _)), ?_⟩
  rw [(Effect.haltSent configured pixels.ne' frame present reply).exec, State.handOver_setObuf]
  rfl

/-- Settles O31: the effects of a WRITE and of a HALT whose call TX answers with an error, and whose call it does not
answer. -/
theorem handoffWithoutSuccess : Obligations.HandoffWithoutSuccess := by
  intro bs s configured whole pos room present
  have pixels := State.pixels_of_whole whole pos
  obtain ⟨out, frame, isIt⟩ := exists_raster_of_whole whole pos room
  obtain ⟨dark, darkFrame, isDark⟩ := exists_raster_zeroFrame pixels room
  refine ⟨fun e reply => ⟨⟨out, isIt, ?_⟩, dark, isDark, ?_⟩, fun reply => ⟨⟨out, isIt, ?_⟩, dark, isDark, ?_⟩⟩
  · rw [(Effect.writeFailed configured whole pos frame present reply).exec, State.handOver_setObuf]; rfl
  · rw [(Effect.haltFailed configured pixels darkFrame present reply).exec, State.handOver_setObuf]; rfl
  · rw [(Effect.writeWaits configured whole pos frame present reply).exec, State.handOver_setObuf]; rfl
  · rw [(Effect.haltWaits configured pixels darkFrame present reply).exec, State.handOver_setObuf]; rfl

/-- Settles O35: the first WRITE leaves an `OBUF` of the same length, so the second rasters the same frame into it. -/
theorem writeTwiceSendsTwice : Obligations.WriteTwiceSendsTwice := by
  intro bs s rest configured whole pos room present script
  obtain ⟨out, frame, -⟩ := exists_raster_of_whole whole pos room
  obtain ⟨inLength, -, isIt⟩ := raster_some s.cpp_good (Memory.hasLength_length room) frame
  have again : raster s.cpp bs out = some out := by
    rw [isIt]
    exact raster_eq s.cpp_good inLength (frame_hasLength _ _)
  have first := (Effect.writeSent configured whole pos frame present (s.txReply_of_script _ _ script)).exec
  have second := (Effect.writeSent (s := (s.setObuf out).handOver.answer (.okCount bs.length)) (bs := bs) (out := out)
    (by simpa using configured) (by simpa [State.frameLen] using whole) pos (by simpa using again)
    (by simpa using present) (State.txReply_of_script _ .ok rest (by simp [script]))).exec
  exact ⟨_, _, (s.setObuf out).txCall, first, second, by simp, by simp [State.txCall, State.bitPeriod],
    by simp [script], rfl⟩

/-! The unanswered handoff (R182; log 6). -/

/-- A WRITE past its length check and a HALT, with TX present and silent, wait with the new frame handed over. -/
theorem Effect.eq_await_of_silent {i : Instr} {s t : State} (h : Effect i s t) (command : Sends i)
    (present : s.txPresent = true) (silent : s.txReply = .silent) (checked : t.rsp ≠ some (.error .lengthError)) :
    ∃ out, t = (s.setObuf out).handOver.await := by
  cases h with
  | writeWaits | haltWaits => exact ⟨_, rfl⟩
  | lengthError => exact absurd rfl checked
  | _ => simp_all [Sends]

theorem runFor_of_waiting {s : State} (unmarked : s.unmarked) (waiting : s.waiting = true) :
    step s = .next s ∧ ∀ n, runFor n s = s := by
  have still : step s = .next s := step_of_waiting (s.marked_none unmarked.1 unmarked.2) waiting
  exact ⟨still, runFor_of_advance_eq (by rw [advance, still]; rfl)⟩

/-- Settles O32: the command leaves a waiting state without marks, and of such a state every step is the state
itself. -/
theorem anUnansweredCallWaitsForEver : Obligations.AnUnansweredCallWaitsForEver := by
  refine ⟨fun i s t command unmarked present silent h checked => ?_,
    fun s unmarked waiting => runFor_of_waiting unmarked waiting⟩
  obtain ⟨out, rfl⟩ := (exec_effect h).eq_await_of_silent command present silent checked
  exact ⟨rfl, rfl, by simp, (runFor_of_waiting (by simpa [State.unmarked] using unmarked) rfl).2⟩

/-! HALT and the WRITE of zeros (decision D13). -/

theorem transmit_exists_next (r : Response) (s : State) : ∃ t, transmit r s = .next t := by
  rcases reply : s.txReply with _ | e | _
  · exact ⟨_, transmit_ok reply⟩
  · exact ⟨_, transmit_err reply⟩
  · exact ⟨_, transmit_silent reply⟩

/-- The response to a successful handoff is all that depends on the command that makes it. -/
theorem transmit_upToResponse {r : Response} {s t : State} (r' : Response) (h : transmit r s = .next t) :
    ∃ t', transmit r' s = .next t' ∧ { t with rsp := none } = { t' with rsp := none } := by
  rcases transmit_next h with ⟨reply, rfl⟩ | ⟨e, reply, rfl⟩ | ⟨reply, rfl⟩
  · exact ⟨_, transmit_ok reply, rfl⟩
  · exact ⟨_, transmit_err reply, rfl⟩
  · exact ⟨_, transmit_silent reply, rfl⟩

theorem transmit_ne_fault (r : Response) (s : State) (f : Fault) : transmit r s ≠ .fault f := by
  obtain ⟨t, h⟩ := transmit_exists_next r s
  rw [h]
  nofun

/-- Log 19: without room for the frame WRITE and HALT fault. -/
theorem exec_write_noRoom {s : State} {bs : List Byte} (configured : s.configured = true)
    (whole : bs.length = s.frameLen) (pos : 0 < bs.length) (noRoom : raster s.cpp bs s.obuf = none) :
    exec (.write bs) s = .fault .frameLengthMismatch := by
  rw [exec, execWrite, if_neg (by simp [configured]), if_neg (State.not_badMultiple_of_whole whole),
    if_neg (by simp only [State.notWholeFrame]; omega), noRoom]

theorem exec_halt_noRoom {s : State} (configured : s.configured = true) (present : s.txPresent = true)
    (pixels : s.pixCount ≠ 0) (noRoom : raster s.cpp s.zeroFrame s.obuf = none) :
    exec .halt s = .fault .frameLengthMismatch := by
  rw [exec, execHalt, if_neg (by simp [configured]), if_neg (by simp [present]), if_neg pixels, noRoom]

theorem exec_write_whole {s : State} {bs : List Byte} {out : Memory} (configured : s.configured = true)
    (present : s.txPresent = true) (whole : bs.length = s.frameLen) (pos : 0 < bs.length)
    (frame : raster s.cpp bs s.obuf = some out) :
    exec (.write bs) s = transmit (.okCount bs.length) (s.setObuf out) := by
  rw [exec, execWrite_whole configured whole pos frame, if_neg (by simp [present])]

/-- Settles O33: both raster the zero frame into `OBUF`; if it fits both hand it over, and if not both fault. -/
theorem haltEqualsWriteOfZeros : Obligations.HaltEqualsWriteOfZeros := by
  intro s configured present pixels
  have whole := s.zeroFrame_length
  have pos : 0 < s.zeroFrame.length := State.zeroFrame_pos pixels.ne'
  rw [show List.replicate (s.cpp * s.pixCount) 0#8 = s.zeroFrame from rfl]
  rcases frame : raster s.cpp s.zeroFrame s.obuf with _ | out
  · rw [exec_halt_noRoom configured present pixels.ne' frame, exec_write_noRoom configured whole pos frame]
    refine ⟨?_, ?_, fun _ => Iff.rfl⟩ <;> rintro _ ⟨⟩
  · have halt : exec .halt s = transmit .ok (s.setObuf out) := execHalt_whole configured pixels.ne' present frame
    rw [halt, exec_write_whole configured present whole pos frame]
    refine ⟨fun t h => transmit_upToResponse _ h, fun t' h => ?_,
      fun f => iff_of_false (transmit_ne_fault _ _ f) (transmit_ne_fault _ _ f)⟩
    obtain ⟨t, answer, same⟩ := transmit_upToResponse .ok h
    exact ⟨t, answer, same.symm⟩

/-! The stops and their order (60_exceptions.md R197, R199). -/

theorem exec_write_of_fresh {s : State} (fresh : s.configured = false) (bs : List Byte) :
    exec (.write bs) s = .refused .notConfigured := by
  simp [exec, execWrite, fresh]

theorem exec_write_notWhole {s : State} {bs : List Byte} (configured : s.configured = true)
    (multiple : bs.length % s.cpp = 0) (notWhole : s.notWholeFrame bs.length) :
    exec (.write bs) s = .fault .frameLengthMismatch := by
  rw [exec, execWrite, if_neg (by simp [configured]), if_neg (not_not.mpr multiple), if_pos notWhole]

theorem exec_halt_of_fresh {s : State} (fresh : s.configured = false) : exec .halt s = .refused .notConfigured := by
  simp [exec, execHalt, fresh]

theorem exec_halt_noPixels {s : State} (configured : s.configured = true) (present : s.txPresent = true)
    (noPixels : s.pixCount = 0) : exec .halt s = .fault .frameLengthMismatch := by
  rw [exec, execHalt, if_neg (by simp [configured]), if_neg (by simp [present]), if_pos noPixels]

/-- Settles O37: each clause is one equation of CONFIG, WRITE or HALT, under the conditions that come before it. -/
theorem conditionsHaveThisPriority : Obligations.ConditionsHaveThisPriority :=
  ⟨fun n v w _ configured => exec_config_of_configured configured n v w,
    fun bs _ => ⟨fun fresh => exec_write_of_fresh fresh bs,
      fun configured bad => (Effect.lengthError configured bad).exec,
      fun configured multiple notWhole => exec_write_notWhole configured multiple notWhole⟩,
    fun _ => ⟨exec_halt_of_fresh, fun configured absent => (Effect.haltUnsent configured absent).exec,
      exec_halt_noPixels⟩⟩

/-- With a sound handle a WRITE is refused before CONFIG, faults on a length that is not the whole frame's, and
otherwise ends in a next state. -/
theorem exec_write_cases {s : State} (ok : s.handleOk) (bs : List Byte) :
    (s.configured = false ∧ exec (.write bs) s = .refused .notConfigured) ∨
    (s.configured = true ∧ bs.length % s.cpp = 0 ∧ s.notWholeFrame bs.length ∧
      exec (.write bs) s = .fault .frameLengthMismatch) ∨
    ∃ t, exec (.write bs) s = .next t := by
  rcases mode : s.configured
  · exact .inl ⟨rfl, exec_write_of_fresh mode bs⟩
  refine .inr ?_
  by_cases bad : s.badMultiple bs.length
  · exact .inr ⟨_, (Effect.lengthError mode bad).exec⟩
  by_cases notWhole : s.notWholeFrame bs.length
  · exact .inl ⟨rfl, not_not.mp bad, notWhole, exec_write_notWhole mode (not_not.mp bad) notWhole⟩
  have whole : bs.length = s.frameLen := not_not.mp fun h => notWhole (.inl h)
  have pos : 0 < bs.length := Nat.pos_of_ne_zero fun h => notWhole (.inr h)
  obtain ⟨out, frame, -⟩ := exists_raster_of_whole whole pos (ok.2 mode).2
  rcases present : s.txPresent
  · exact .inr ⟨_, (Effect.writeUnsent mode whole pos frame present).exec⟩
  · rw [exec_write_whole mode present whole pos frame]
    exact .inr (transmit_exists_next _ _)

/-- With a sound handle a HALT is refused before CONFIG, faults where there is no pixel to send, and otherwise ends in a
next state. -/
theorem exec_halt_cases {s : State} (ok : s.handleOk) :
    (s.configured = false ∧ exec .halt s = .refused .notConfigured) ∨
    (s.configured = true ∧ s.pixCount = 0 ∧ s.txPresent = true ∧ exec .halt s = .fault .frameLengthMismatch) ∨
    ∃ t, exec .halt s = .next t := by
  rcases mode : s.configured
  · exact .inl ⟨rfl, exec_halt_of_fresh mode⟩
  rcases present : s.txPresent
  · exact .inr (.inr ⟨_, (Effect.haltUnsent mode present).exec⟩)
  by_cases pixels : s.pixCount = 0
  · exact .inr (.inl ⟨rfl, pixels, rfl, exec_halt_noPixels mode present pixels⟩)
  obtain ⟨out, frame, -⟩ := exists_raster_zeroFrame pixels (ok.2 mode).2
  have halt : exec .halt s = transmit .ok (s.setObuf out) := execHalt_whole mode pixels present frame
  rw [halt]
  exact .inr (.inr (transmit_exists_next _ _))

/-- CONFIG is refused in a configured block, and otherwise ends in a next state. -/
theorem exec_config_cases (n v : Nat) (w : Bool) (s : State) :
    (s.configured = true ∧ exec (.config n v w) s = .refused .alreadyConfigured) ∨
    ∃ t, exec (.config n v w) s = .next t := by
  rcases mode : s.configured
  · by_cases speed : v = 0
    · subst speed
      exact .inr ⟨_, (Effect.configError mode).exec⟩
    · exact .inr ⟨_, (Effect.config mode speed).exec⟩
  · exact .inl ⟨rfl, exec_config_of_configured mode n v w⟩

/-- Settles O38: by command, from the stops each of them has. -/
theorem onlyTheListedStops : Obligations.OnlyTheListedStops := by
  intro i s ok
  cases i with
  | enc b =>
    rw [exec_enc]
    exact ⟨nofun, nofun⟩
  | raster cpp inBuf outBuf placement =>
    rcases exec_raster_cases cpp inBuf outBuf placement with ⟨bad, h⟩ | ⟨good, bad, h⟩ | ⟨rfl, h⟩ | h <;> rw [h]
    · rw [goodChannelCount, not_or] at bad
      refine ⟨nofun, ?_⟩
      rintro _ ⟨⟩
      exact .inl ⟨cpp, inBuf, outBuf, placement, rfl, rfl, bad⟩
    · refine ⟨?_, nofun⟩
      rintro _ ⟨⟩
      exact .inr (.inr ⟨cpp, inBuf, outBuf, placement, rfl, rfl, by omega⟩)
    · refine ⟨nofun, ?_⟩
      rintro _ ⟨⟩
      exact .inr (.inl ⟨cpp, inBuf, outBuf, rfl, rfl⟩)
    · exact ⟨nofun, nofun⟩
  | config n v w =>
    rcases exec_config_cases n v w s with ⟨configured, h⟩ | ⟨t, h⟩ <;> rw [h]
    · refine ⟨nofun, ?_⟩
      rintro _ ⟨⟩
      exact .inr (.inr (.inr ⟨n, v, w, rfl, rfl, configured⟩))
    · exact ⟨nofun, nofun⟩
  | write bs =>
    rcases exec_write_cases ok bs with ⟨fresh, h⟩ | ⟨configured, multiple, notWhole, h⟩ | ⟨t, h⟩ <;> rw [h]
    · refine ⟨nofun, ?_⟩
      rintro _ ⟨⟩
      exact .inr (.inr (.inl ⟨.inl ⟨bs, rfl⟩, rfl, fresh⟩))
    · refine ⟨?_, nofun⟩
      rintro _ ⟨⟩
      exact .inl ⟨bs, rfl, configured, rfl, multiple, notWhole⟩
    · exact ⟨nofun, nofun⟩
  | halt =>
    rcases exec_halt_cases ok with ⟨fresh, h⟩ | ⟨configured, pixels, present, h⟩ | ⟨t, h⟩ <;> rw [h]
    · refine ⟨nofun, ?_⟩
      rintro _ ⟨⟩
      exact .inr (.inr (.inl ⟨.inr rfl, rfl, fresh⟩))
    · refine ⟨?_, nofun⟩
      rintro _ ⟨⟩
      exact .inr (.inl ⟨rfl, configured, rfl, pixels, present⟩)
    · exact ⟨nofun, nofun⟩

/-! What WRITE and HALT leave (10_state.md R28, 42_device_handle.md R158). -/

/-- A WRITE past its length check and a HALT with TX present leave the new frame in `OBUF`. -/
theorem Effect.exists_newFrame {i : Instr} {s t : State} (h : Effect i s t)
    (passes : ((∃ bs, i = .write bs) ∧ t.rsp ≠ some (.error .lengthError)) ∨ (i = .halt ∧ s.txPresent = true)) :
    ∃ bs out, s.NewFrame bs out ∧ t.obuf = out := by
  cases h with
  | writeUnsent configured whole pos frame => exact ⟨_, _, ⟨configured, whole, pos, frame⟩, by simp⟩
  | writeSent configured whole pos frame | writeFailed configured whole pos frame
  | writeWaits configured whole pos frame => exact ⟨_, _, ⟨configured, whole, pos, frame⟩, by simp⟩
  | haltSent configured pixels frame | haltFailed configured pixels frame | haltWaits configured pixels frame =>
    exact ⟨_, _, State.newFrame_zeroFrame configured pixels frame, by simp⟩
  | _ => simp_all

/-- Settles O49: what they leave is a frame, and a frame has valid triples only. -/
theorem rasteredFrameIsValid : Obligations.RasteredFrameIsValid := by
  intro i s t ok h passes
  have effect := exec_effect h
  have command : Sends i := passes.imp And.left And.left
  have same := effect.sameHandle (.inr command.ne_config)
  obtain ⟨bs, out, new, obuf⟩ := effect.exists_newFrame passes
  rw [obuf, same.cpp, same.pixCount]
  exact new.validFrame ok

/-- A WRITE that ends in LengthError and a HALT without TX only answer. -/
theorem Effect.eq_answer_of_unsent {i : Instr} {s t : State} (h : Effect i s t)
    (unsent : t.rsp = some (.error .lengthError) ∨ (i = .halt ∧ s.txPresent = false)) : ∃ r, t = s.answer r := by
  rcases unsent with raised | ⟨rfl, absent⟩
  · exact ⟨_, (h.of_lengthError raised).2⟩
  · cases h with
    | haltUnsent => exact ⟨_, rfl⟩
    | _ => simp_all

theorem State.NewFrame.read_outside {s : State} {bs : List Byte} {out : Memory} (new : s.NewFrame bs out)
    (ok : s.handleOk) {a : Nat}
    (outside : ∀ p c j, p < s.pixCount → c < s.cpp → j < 3 → a ≠ outOffset s.cpp p c + j) :
    Memory.read out a = Memory.read s.obuf a := by
  have pixels : bs.length / s.cpp = s.pixCount := by
    rw [new.whole, State.frameLen, Nat.mul_div_cancel_left _ s.cpp_pos]
  exact read_raster_outside s.cpp_good (Memory.hasLength_length (new.room ok)) new.frame (pixels ▸ outside)

/-- The handoff writes the script or the counter of draws, and records the call. -/
theorem State.handOver_eq (s : State) : ∃ script draws,
    s.handOver = { s with txScript := script, draws := draws, txCalls := s.txCalls ++ [s.txCall] } := by
  unfold State.handOver State.consumeReply
  split <;> exact ⟨_, _, rfl⟩

theorem Change.frame_of_sends {i : Instr} {s t : State} (h : Change i s t) (ok : s.handleOk) (command : Sends i) :
    t = { s with
      obuf := t.obuf, rsp := t.rsp, txCalls := t.txCalls, txScript := t.txScript, draws := t.draws
      waiting := t.waiting } ∧
    (t.waiting = s.waiting ∨ (t.waiting = true ∧ s.txPresent = true ∧ s.txReply = .silent)) ∧
    ∀ a, (∀ p c j, p < s.pixCount → c < s.cpp → j < 3 → a ≠ outOffset s.cpp p c + j) →
      Memory.read t.obuf a = Memory.read s.obuf a := by
  cases h with
  | rastered | constructed => simp [Sends] at command
  | answered => exact ⟨rfl, .inl rfl, fun _ _ => rfl⟩
  | stored _ new => exact ⟨rfl, .inl rfl, fun _ outside => new.read_outside ok outside⟩
  | @sent _ _ _ out _ new =>
    obtain ⟨script, draws, sent⟩ := (s.setObuf out).handOver_eq
    rw [sent]
    exact ⟨rfl, .inl rfl, fun _ outside => new.read_outside ok outside⟩
  | @waits _ _ _ out _ new present silent =>
    obtain ⟨script, draws, sent⟩ := (s.setObuf out).handOver_eq
    rw [sent]
    exact ⟨rfl, .inr ⟨rfl, present, silent⟩, fun _ outside => new.read_outside ok outside⟩

/-- Settles O34: the frame of the changes WRITE and HALT can make; those that only answer are told apart by the response
and TX. -/
theorem writeAndHaltFrame : Obligations.WriteAndHaltFrame := by
  intro i s t ok command h
  have effect := exec_effect h
  obtain ⟨others, waiting, outside⟩ := effect.change.frame_of_sends ok command
  refine ⟨others, waiting, outside, fun unsent => ?_⟩
  obtain ⟨r, rfl⟩ := effect.eq_answer_of_unsent unsent
  exact ⟨fun _ => rfl, rfl⟩

/-- R186: as many periods as bits. -/
theorem State.NewFrame.call_duration {s : State} {bs : List Byte} {out : Memory} (new : s.NewFrame bs out)
    (ok : s.handleOk) :
    (s.setObuf out).txCall.duration = (24 * s.cpp * s.pixCount : Rat) / (s.speedHz : Rat) := by
  have period : (s.setObuf out).txCall.period = 1 / (s.speedHz : Rat) := rfl
  rw [TxCall.duration, new.call_length ok, period, mul_one_div]
  push_cast
  rfl

/-- Settles O36: only the changes with a handoff make a call, and theirs carries the new frame at the exact period. -/
theorem bitPeriodIsExact : Obligations.BitPeriodIsExact := by
  intro i s t ok h
  cases (exec_effect h).change with
  | @sent _ _ _ out _ new | @waits _ _ _ out _ new =>
    exact .inr ⟨(s.setObuf out).txCall, by simp, new.call_period ok, new.call_length ok, new.call_duration ok⟩
  | _ => exact .inl rfl

/-- Settles O43: of the six changes only those with a handoff call TX, and only those with a new frame write `OBUF`. -/
theorem onlyWriteAndHaltCallTx : Obligations.OnlyWriteAndHaltCallTx := by
  intro i s t h
  cases (exec_effect h).change with
  | answered | rastered => exact .inr ⟨rfl, rfl, .inl rfl⟩
  | constructed => exact .inr ⟨rfl, rfl, .inr ⟨_, _, _, rfl⟩⟩
  | stored command => exact .inl ⟨command, .inl rfl⟩
  | sent command | waits command => exact .inl ⟨command, .inr (by simp [State.txCall, State.bitPeriod])⟩

/-- Settles O40: effect by effect. -/
theorem responsesOfEachCommand : Obligations.ResponsesOfEachCommand := by
  intro i s t h
  cases exec_effect h with
  | enc => exact .inr ⟨_, rfl, rfl, rfl, rfl⟩
  | raster => exact .inr ⟨_, rfl, rfl, rfl, rfl⟩
  | configError => exact .inr ⟨_, rfl, rfl, rfl⟩
  | config _ speed => exact .inr ⟨_, rfl, (if_neg speed).symm, rfl⟩
  | lengthError => exact .inr ⟨_, rfl, .inr ⟨.inl rfl, rfl⟩⟩
  | writeUnsent => exact .inr ⟨_, rfl, .inr ⟨.inr (.inl rfl), rfl⟩⟩
  | writeSent _ whole => exact .inr ⟨_, rfl, .inl ⟨rfl, rfl, whole⟩⟩
  | writeFailed => exact .inr ⟨_, rfl, .inr ⟨.inr (.inr rfl), rfl⟩⟩
  | haltUnsent => exact .inr ⟨_, rfl, .inr (.inl rfl), rfl⟩
  | haltSent => exact .inr ⟨_, rfl, .inl rfl, rfl⟩
  | haltFailed => exact .inr ⟨_, rfl, .inr (.inr rfl), rfl⟩
  | writeWaits _ _ _ _ present silent => exact .inl ⟨.inl ⟨_, rfl⟩, present, silent, rfl, rfl⟩
  | haltWaits _ _ _ present silent => exact .inl ⟨.inr rfl, present, silent, rfl, rfl⟩

end Sys2Proof.Machine

/-! PROOFS. Patterns (30_encoding.md R84 to R86, R94) and the arithmetic of ENC (40_bit_encoder.md R114). -/

namespace Sys2Proof.Machine

/-! The masks (R84). -/

/-- The variable positions are `3k + 1`. -/
theorem onesMask_getLsbD : ∀ j, j < 24 → Config.onesMask.getLsbD j = decide (j % 3 = 1) := by decide

/-- Settles O7: values of constants, and of operations on them. -/
theorem patternConstantsAndMasks : Obligations.PatternConstantsAndMasks :=
  ⟨rfl, rfl, rfl, by decide, rfl, onesMask_getLsbD, by decide, by decide, by decide⟩

/-! Valid patterns (R94). -/

/-- The constant positions of a pattern hold what they hold in the skeleton. -/
def HasSkeleton (p : Pattern) : Prop := ∀ j, j < 24 → j % 3 ≠ 1 → p.getLsbD j = decide (j % 3 = 2)

theorem hasSkeleton_enc (b : Byte) : HasSkeleton (enc b) := by
  intro j hj constant
  rw [enc_getLsbD]
  simp [hj, constant]

/-- A group is one of the two of R83 exactly when its outer bits are 1 and 0. -/
theorem group_valid_iff : ∀ g : Group, (g == Config.zeroGroup || g == Config.oneGroup) = true ↔
    g.getLsbD 2 = true ∧ g.getLsbD 0 = false := by decide

theorem validPattern_iff (p : Pattern) :
    validPattern p = true ↔ ∀ k, k < 8 → p.getLsbD (3 * k + 2) = true ∧ p.getLsbD (3 * k) = false := by
  have outer {k : Nat} (hk : k < 8) :
      (group p (7 - k) == Config.zeroGroup || group p (7 - k) == Config.oneGroup) = true ↔
        p.getLsbD (3 * k + 2) = true ∧ p.getLsbD (3 * k) = false := by
    rw [group_valid_iff, group, show 21 - 3 * (7 - k) = 3 * k by omega]
    simp
  rw [validPattern, List.all_eq_true]
  constructor
  · exact fun valid k hk => (outer hk).mp (valid (7 - k) (List.mem_range.mpr (by omega)))
  · intro bits i hi
    have hi := List.mem_range.mp hi
    rw [show i = 7 - (7 - i) by omega]
    exact (outer (by omega)).mpr (bits (7 - i) (by omega))

theorem validPattern_iff_hasSkeleton (p : Pattern) : validPattern p = true ↔ HasSkeleton p := by
  rw [validPattern_iff]
  constructor
  · intro bits j hj constant
    obtain ⟨high, low⟩ := bits (j / 3) (by omega)
    obtain isHigh | isLow : j % 3 = 2 ∨ j % 3 = 0 := by omega
    · rwa [isHigh, show j = 3 * (j / 3) + 2 by omega]
    · rwa [isLow, show j = 3 * (j / 3) by omega]
  · intro skeleton k hk
    rw [skeleton (3 * k + 2) (by omega) (by omega), skeleton (3 * k) (by omega) (by omega)]
    exact ⟨decide_eq_true (by omega), decide_eq_false (by omega)⟩

theorem mask_iff_hasSkeleton (p : Pattern) : p &&& Config.fixedMask = Config.skeleton ↔ HasSkeleton p := by
  constructor
  · intro masked j hj constant
    rw [← skeleton_getLsbD j hj, ← masked, BitVec.getLsbD_and, fixedMask_getLsbD j hj, decide_eq_true constant,
      Bool.and_true]
  · intro skeleton
    apply BitVec.eq_of_getLsbD_eq
    intro j hj
    rw [BitVec.getLsbD_and, fixedMask_getLsbD j hj, skeleton_getLsbD j hj]
    by_cases source : j % 3 = 1
    · simp [source]
    · simp [skeleton j hj source, source]

/-- ENC undoes DEC exactly on the patterns with the skeleton's bits, since DEC keeps the others. -/
theorem enc_dec_iff_hasSkeleton (p : Pattern) : enc (dec p) = p ↔ HasSkeleton p := by
  constructor
  · intro same
    rw [← same]
    exact hasSkeleton_enc _
  · intro skeleton
    apply BitVec.eq_of_getLsbD_eq
    intro j hj
    by_cases source : j % 3 = 1
    · have hk : j / 3 < 8 := by omega
      rw [show j = 3 * (j / 3) + 1 by omega, enc_getLsbD_source _ hk, dec_getLsbD _ _ hk]
    · rw [hasSkeleton_enc _ j hj source, skeleton j hj source]

theorem card_validPattern : (Finset.univ.filter fun p : Pattern => validPattern p = true).card = 256 := by
  have image : (Finset.univ.filter fun p : Pattern => validPattern p = true) = Finset.image enc Finset.univ := by
    ext p
    rw [Finset.mem_filter_univ, Finset.mem_image]
    constructor
    · intro valid
      exact ⟨dec p, Finset.mem_univ _, (enc_dec_iff_hasSkeleton p).mpr ((validPattern_iff_hasSkeleton p).mp valid)⟩
    · rintro ⟨b, -, rfl⟩
      exact validPattern_enc b
  rw [image, card_image_enc]

/-- Settles O4: all three conditions say that the constant positions are the skeleton's. -/
theorem validPatternsAreExactlyTheEncodings : Obligations.ValidPatternsAreExactlyTheEncodings :=
  ⟨fun p => (validPattern_iff_hasSkeleton p).trans (mask_iff_hasSkeleton p).symm,
    fun p => (validPattern_iff_hasSkeleton p).trans (enc_dec_iff_hasSkeleton p).symm,
    fun p _ hk => dec_getLsbD p _ hk, fun b => ⟨validPattern_enc b, dec_enc b⟩, card_validPattern⟩

/-! The loop as a sum (R114 (a), (b)). -/

/-- The source bits below `n` at their places in a pattern: the sum of `b[k] * 2^(3k+1)`. -/
def spread (b : Byte) (n : Nat) : Nat :=
  ((List.range n).map fun k => if b.getLsbD k then 2 ^ (3 * k + 1) else 0).sum

theorem spread_succ (b : Byte) (n : Nat) :
    spread b (n + 1) = spread b n + if b.getLsbD n then 2 ^ (3 * n + 1) else 0 := by
  simp [spread, List.range_succ]

theorem foldl_upgrade_succ (b : Byte) (n : Nat) :
    (List.range (n + 1)).foldl (upgrade b) Config.skeleton =
      upgrade b ((List.range n).foldl (upgrade b) Config.skeleton) n := by
  rw [List.range_succ, List.foldl_append, List.foldl_cons, List.foldl_nil]

theorem upgrade_of_set {b : Byte} {k : Nat} (set : b.getLsbD k = true) (p : Pattern) :
    upgrade b p k = p ||| BitVec.twoPow 24 (3 * k + 1) := if_pos set

theorem upgrade_of_clear {b : Byte} {k : Nat} (clear : b.getLsbD k = false) (p : Pattern) : upgrade b p k = p :=
  if_neg (by rw [clear]; decide)

/-- The turn of a source bit finds the position it may set clear: the skeleton has it clear and no earlier turn sets
it. -/
theorem foldl_upgrade_getLsbD (b : Byte) {n k : Nat} (hn : n ≤ k) (hk : k < 8) :
    ((List.range n).foldl (upgrade b) Config.skeleton).getLsbD (3 * k + 1) = false := by
  induction n with
  | zero =>
    rw [List.range_zero, List.foldl_nil, skeleton_getLsbD _ (by omega)]
    exact decide_eq_false (by omega)
  | succ n ih =>
    rw [foldl_upgrade_succ]
    rcases set : b.getLsbD n
    · rw [upgrade_of_clear set, ih (by omega)]
    · rw [upgrade_of_set set, BitVec.getLsbD_or, ih (by omega), BitVec.getLsbD_twoPow,
        decide_eq_false (p := 3 * n + 1 = 3 * k + 1) (by omega), Bool.and_false, Bool.or_false]

/-- So each turn adds its power of two. -/
theorem foldl_upgrade_toNat (b : Byte) {n : Nat} (hn : n ≤ 8) :
    ((List.range n).foldl (upgrade b) Config.skeleton).toNat = 0x924924 + spread b n := by
  induction n with
  | zero => rfl
  | succ n ih =>
    rw [foldl_upgrade_succ, spread_succ]
    rcases set : b.getLsbD n
    · rw [upgrade_of_clear set, ih (by omega)]
      rfl
    · have disjoint : (List.range n).foldl (upgrade b) Config.skeleton &&& BitVec.twoPow 24 (3 * n + 1) = 0#24 := by
        rw [BitVec.and_twoPow, foldl_upgrade_getLsbD b le_rfl (by omega)]
        rfl
      rw [upgrade_of_set set, ← BitVec.add_eq_or_of_and_eq_zero _ _ disjoint, BitVec.toNat_add_of_and_eq_zero disjoint,
        ih (by omega), BitVec.toNat_twoPow_of_lt (by omega), if_pos rfl, Nat.add_assoc]

theorem enc_toNat (b : Byte) : (enc b).toNat = 0x924924 + spread b 8 := foldl_upgrade_toNat b le_rfl

/-- At every position one of the skeleton and the source bits is clear, and the other is ENC's bit. -/
theorem skeleton_source_getLsbD (b : Byte) {j : Nat} (hj : j < 24) :
    (Config.skeleton.getLsbD j = false ∧ (enc b &&& Config.onesMask).getLsbD j = (enc b).getLsbD j) ∨
    (Config.skeleton.getLsbD j = (enc b).getLsbD j ∧ (enc b &&& Config.onesMask).getLsbD j = false) := by
  rw [BitVec.getLsbD_and, skeleton_getLsbD j hj, onesMask_getLsbD j hj]
  by_cases source : j % 3 = 1
  · exact .inl (by simp [source])
  · exact .inr (by simp [source, hasSkeleton_enc b j hj source])

theorem skeleton_or_source (b : Byte) : Config.skeleton ||| (enc b &&& Config.onesMask) = enc b := by
  apply BitVec.eq_of_getLsbD_eq
  intro j hj
  rw [BitVec.getLsbD_or]
  rcases skeleton_source_getLsbD b hj with ⟨clear, bit⟩ | ⟨bit, clear⟩ <;> simp [clear, bit]

theorem skeleton_xor_source (b : Byte) : Config.skeleton ^^^ (enc b &&& Config.onesMask) = enc b := by
  apply BitVec.eq_of_getLsbD_eq
  intro j hj
  rw [BitVec.getLsbD_xor]
  rcases skeleton_source_getLsbD b hj with ⟨clear, bit⟩ | ⟨bit, clear⟩ <;> simp [clear, bit]

theorem skeleton_and_source (b : Byte) : Config.skeleton &&& (enc b &&& Config.onesMask) = 0#24 := by
  apply BitVec.eq_of_getLsbD_eq
  intro j hj
  rw [BitVec.getLsbD_and, BitVec.getLsbD_zero]
  rcases skeleton_source_getLsbD b hj with ⟨clear, -⟩ | ⟨-, clear⟩ <;> simp [clear]

/-- The spread byte as a pattern: the variable positions of ENC's result. -/
theorem ofNat_spread (b : Byte) : BitVec.ofNat 24 (spread b 8) = enc b &&& Config.onesMask := by
  have sum : BitVec.ofNat 24 (enc b).toNat = enc b := by simp
  rw [enc_toNat, BitVec.ofNat_add] at sum
  rw [← BitVec.add_right_inj Config.skeleton, BitVec.add_eq_or_of_and_eq_zero _ _ (skeleton_and_source b),
    skeleton_or_source]
  exact sum

theorem spread_eq_twice (b : Byte) :
    spread b 8 = 2 * ((List.range 8).map fun k => if b.getLsbD k then 8 ^ k else 0).sum := by
  rw [spread, ← List.sum_map_mul_left]
  congr 1
  refine List.map_congr_left fun k _ => ?_
  rw [mul_ite, mul_zero, pow_succ', pow_mul]
  rfl

/-- The spread byte is largest with every source bit set. -/
theorem spread_le (b : Byte) : spread b 8 ≤ 0x492492 := by
  calc spread b 8 ≤ ((List.range 8).map fun k => 2 ^ (3 * k + 1)).sum :=
        List.sum_le_sum fun k _ => by split <;> simp
    _ = 0x492492 := by decide

/-! The order (R114 (c)). -/

/-- The highest bit in which two bytes differ is the source of the highest difference of their patterns. -/
theorem enc_lt_enc {a b : Byte} (less : a < b) : enc a < enc b := by
  have differ : (a ^^^ b).toNat ≠ 0 := by
    intro zero
    have same : a = b := BitVec.xor_eq_zero_iff.mp (BitVec.eq_of_toNat_eq zero)
    rw [same] at less
    exact Nat.lt_irrefl _ less
  obtain ⟨k, top, above⟩ := Nat.exists_most_significant_bit differ
  replace top : (a.getLsbD k ^^ b.getLsbD k) = true := (BitVec.getLsbD_xor ..).symm.trans top
  replace above (j : Nat) (hj : k < j) : a.getLsbD j = b.getLsbD j := by
    simpa using (BitVec.getLsbD_xor ..).symm.trans (above j hj)
  have hk : k < 8 := by
    by_contra outside
    rw [BitVec.getLsbD_of_ge _ _ (by omega), BitVec.getLsbD_of_ge _ _ (by omega)] at top
    cases top
  have clear : a.getLsbD k = false := by
    rcases set : a.getLsbD k
    · rfl
    · have clear : b.getLsbD k = false := by simpa [set] using top
      have greater : b < a := Nat.lt_of_testBit k clear set fun j hj => (above j hj).symm
      exact absurd less (Nat.lt_asymm greater)
  have set : b.getLsbD k = true := by simpa [clear] using top
  refine Nat.lt_of_testBit (3 * k + 1) ((enc_getLsbD_source a hk).trans clear) ((enc_getLsbD_source b hk).trans set)
    fun j hj => ?_
  change (enc a).getLsbD j = (enc b).getLsbD j
  rw [enc_getLsbD, enc_getLsbD]
  by_cases source : j % 3 = 1
  · rw [above (j / 3) (by omega)]
  · simp [source]

/-! Bitwise operations (R114 (d)). -/

/-- Two patterns of ENC's are compared at the variable positions only. -/
theorem enc_or (a b : Byte) : enc (a ||| b) = enc a ||| enc b := by
  apply BitVec.eq_of_getLsbD_eq
  intro j hj
  rw [BitVec.getLsbD_or, enc_getLsbD, enc_getLsbD, enc_getLsbD, BitVec.getLsbD_or]
  by_cases source : j % 3 = 1 <;> simp [source, hj]

theorem enc_and (a b : Byte) : enc (a &&& b) = enc a &&& enc b := by
  apply BitVec.eq_of_getLsbD_eq
  intro j hj
  rw [BitVec.getLsbD_and, enc_getLsbD, enc_getLsbD, enc_getLsbD, BitVec.getLsbD_and]
  by_cases source : j % 3 = 1 <;> simp [source, hj]

theorem enc_not (b : Byte) : enc (~~~b) = enc b ^^^ Config.onesMask := by
  apply BitVec.eq_of_getLsbD_eq
  intro j hj
  rw [BitVec.getLsbD_xor, onesMask_getLsbD j hj, enc_getLsbD, enc_getLsbD, BitVec.getLsbD_not,
    decide_eq_true (show j / 3 < 8 by omega)]
  by_cases source : j % 3 = 1 <;> simp [source, hj]

/-! The weight (R114 (e)). -/

/-- Every group has one bit of the skeleton, and its source bit. -/
theorem countP_enc (b : Byte) {n : Nat} (hn : n ≤ 8) :
    (List.range (3 * n)).countP (fun j => (enc b).getLsbD j) = n + (List.range n).countP fun k => b.getLsbD k := by
  induction n with
  | zero => rfl
  | succ n ih =>
    rw [Nat.mul_succ, List.range_succ, List.range_succ, List.range_succ, List.range_succ]
    simp only [List.countP_append, List.countP_singleton, ih (by omega), enc_getLsbD_low,
      enc_getLsbD_source b (show n < 8 by omega), enc_getLsbD_high b (show n < 8 by omega)]
    rcases b.getLsbD n <;> simp <;> omega

/-- Settles O5: the source bits stand at positions the skeleton has clear, so OR, XOR and sum agree there; order and
weight are read off the bits. -/
theorem encArithmeticLaws : Obligations.EncArithmeticLaws := by
  intro b n isSpread
  obtain rfl : n = spread b 8 := isSpread
  have value := enc_toNat b
  have bound := spread_le b
  refine ⟨⟨?or, ?xor, ?and, value⟩, ⟨spread_eq_twice b, bound⟩, ⟨by omega, by omega, fun a less => enc_lt_enc less⟩,
    ⟨fun a => ⟨enc_or a b, enc_and a b⟩, enc_not b⟩, ?weight⟩
  case or => rw [ofNat_spread]; exact (skeleton_or_source b).symm
  case xor => rw [ofNat_spread]; exact (skeleton_xor_source b).symm
  case and => rw [ofNat_spread]; exact skeleton_and_source b
  case weight =>
    rw [← List.countP_eq_length_filter, ← List.countP_eq_length_filter]
    exact countP_enc b le_rfl

/-! The bytes of a pattern (R86). -/

/-- Settles O9: each bit of the three bytes is a constant position or one source bit. -/
theorem patternBytesOfSourceBits : Obligations.PatternBytesOfSourceBits := by
  intro b bit isBit
  have bits (k j : Nat) : (bit k).getLsbD j = (decide (j = 0) && b.getLsbD k) := by
    rw [isBit]
    cases b.getLsbD k <;> simp
  rw [bytes3, List.cons.injEq, List.cons.injEq, List.cons.injEq]
  refine ⟨?_, ?_, ?_, rfl⟩
  all_goals
    apply BitVec.eq_of_getLsbD_eq
    intro j hj
    simp only [BitVec.getLsbD_or, BitVec.getLsbD_shiftLeft, BitVec.getLsbD_extractLsb', enc_getLsbD, bits]
    interval_cases j <;> simp

end Sys2Proof.Machine
